-- ==== Sys2Proof/Word.lean ====
section
/-! DEFINITION. Numbers on a port of a given width (spec/00_scope.md R6, `DATA_WIDTH`). -/

namespace Sys2Proof

/-- A number whose bits are all on a port of `width` wires (R6, R47). -/
abbrev Fits (width : Nat) (v : Nat) : Prop := v < 2 ^ width

end Sys2Proof
end

