-- ==== Sys2Proof/Config.lean ====
section
/-! DEFINITION. What is fixed when an instance of the block is constructed (spec/00_scope.md R5 to R8, R25). -/

namespace Sys2Proof

/-- The parameters of the block over a type `α` of elements (R5, R6, R7). The element type is the parameter `α`, any
type with one distinguished value. `DEPTH ≥ 1` is part of the type, so that no rule ever meets `DEPTH = 0` (R103, D16;
log entry 8). -/
structure Params (α : Type) where
  /-- `DEPTH`, the capacity in elements (R5). -/
  depth : Nat
  /-- `ELEM_DEFAULT`, the distinguished value of the element type (R6, R7). -/
  elemDefault : α
  /-- A capacity of zero does not exist (R103). -/
  depth_pos : 1 ≤ depth
  deriving DecidableEq, Repr

/-- The parameters of one instance whose elements are bit vectors (R5, R6, R7): `DEPTH ≥ 1` and `DATA_WIDTH ≥ 1` are part
of the type, and the default value has `DATA_WIDTH` bits by its own type (log entries 4 and 8). -/
structure Config where
  /-- `DEPTH`, the capacity in elements (R5). -/
  depth : Nat
  /-- `DATA_WIDTH`, the width of the data ports and of each cell (R6). -/
  dataWidth : Nat
  /-- `ELEM_DEFAULT`, the value of `data_out` after a reset edge (R7). -/
  elemDefault : BitVec dataWidth
  /-- A capacity of zero does not exist (R103). -/
  depth_pos : 1 ≤ depth := by decide
  /-- A data port has at least one wire (R6). -/
  width_pos : 1 ≤ dataWidth := by decide
  deriving DecidableEq, Repr

/-- The instance's element type, a bit vector of `DATA_WIDTH` bits (R6). -/
abbrev Config.Element (c : Config) : Type := BitVec c.dataWidth

/-- The instance as parameters of the block over its element type. -/
def Config.params (c : Config) : Params c.Element :=
  { depth := c.depth, elemDefault := c.elemDefault, depth_pos := c.depth_pos }

/-- The spec's reference configuration: `DEPTH = 8`, `DATA_WIDTH = 8`, `ELEM_DEFAULT = 0x00` (R5, R6, R7). -/
def Config.reference : Config := { depth := 8, dataWidth := 8, elemDefault := 0 }

/-- `SIZE_WIDTH = ceil(log2(DEPTH + 1))`, the least width that holds `0 .. DEPTH` (R8, R90): the number of binary
digits of `DEPTH`. -/
def Config.sizeWidth (c : Config) : Nat := Nat.log2 c.depth + 1

end Sys2Proof
end

