-- ==== Sys2Proof/Syntax.lean ====
section
/-! DEFINITION. The inputs sampled at one rising edge (spec/30_encoding.md R47), the five operations (R50), and the
lines in which a run is written down (R57, R58). -/

namespace Sys2Proof

/-- The input vector of one rising edge (R22, R47), with `data_in` of type `α`. `reset` is the level of the wire: `false`
(0) means that reset is asserted (active-low). -/
structure Sample (α : Type) where
  reset : Bool
  writeRequest : Bool
  readRequest : Bool
  dataIn : α
  deriving DecidableEq, Repr

/-- An input vector as a run writes it down (R49, R57): `data_in` is a number, whose bits the data port carries. -/
abbrev Inputs : Type := Sample Nat

/-- The operations of one edge, one constructor per row of the operation table (R50). The inputs an operation ignores
are kept as fields, so that no bit of an input vector is dropped by decoding; that they have no effect is said by the
meanings (R51, R53; log entry 18). -/
inductive Instr where
  /-- RESET (R61): the wire `reset` is 0; the three other inputs are ignored. -/
  | reset (writeRequest readRequest : Bool) (dataIn : Nat)
  /-- IDLE (R70); `data_in` is ignored. -/
  | idle (dataIn : Nat)
  /-- READ (R71); `data_in` is ignored. -/
  | read (dataIn : Nat)
  /-- WRITE (R72) of `data_in`. -/
  | write (dataIn : Nat)
  /-- READ_WRITE (R73): a read and a write of `data_in` at one edge. -/
  | readWrite (dataIn : Nat)
  deriving DecidableEq, Repr

/-- One line of a written run (R57), the pseudo-operations of R58 among them. -/
inductive Line where
  | reset
  | resetWith (writeRequest readRequest : Bool) (v : Nat)
  | idle
  | read
  | write (v : Nat)
  | readWrite (v : Nat)
  /-- `NOP`, a synonym of `IDLE` (R58). -/
  | nop
  /-- `PUSH v`, a synonym of `WRITE v` (R58). -/
  | push (v : Nat)
  /-- `POP`, a synonym of `READ` (R58). -/
  | pop
  /-- `op*n`, `op` repeated `n` times (R58). -/
  | times (op : Line) (n : Nat)
  deriving DecidableEq, Repr

end Sys2Proof
end

