-- ==== Sys2Proof/WellFormed.lean ====
section
/-! DEFINITION. When an input vector, an operation or a written line is well formed: the data fits the data port
(spec/00_scope.md R6), a repeat count is at least 1 (R58). A configuration is well formed by its type. -/

namespace Sys2Proof

/-- `data_in` has `DATA_WIDTH` bits (R47). -/
abbrev Inputs.WellFormed (width : Nat) (v : Inputs) : Prop := Fits width v.dataIn

/-- The value on `data_in`, which every operation carries (R49). -/
def Instr.dataIn : Instr → Nat
  | .reset _ _ d => d
  | .idle d => d
  | .read d => d
  | .write d => d
  | .readWrite d => d

/-- The operation's `data_in` has `DATA_WIDTH` bits (R49). -/
abbrev Instr.WellFormed (width : Nat) (i : Instr) : Prop := Fits width i.dataIn

/-- A line's element has `DATA_WIDTH` bits (R57), and a repeat count is at least 1 (R58). -/
def Line.isWellFormed (width : Nat) : Line → Bool
  | .resetWith _ _ v => decide (Fits width v)
  | .write v => decide (Fits width v)
  | .readWrite v => decide (Fits width v)
  | .push v => decide (Fits width v)
  | .times op n => decide (1 ≤ n) && op.isWellFormed width
  | .reset => true
  | .idle => true
  | .read => true
  | .nop => true
  | .pop => true

end Sys2Proof
end

