-- ==== Sys2Proof/Decode.lean ====
section
/-! DEFINITION. From the inputs of an edge to its operation and back (spec/30_encoding.md R48 to R51), the command word
(R49), the operation table's numbering, and the written lines (R57, R58). -/

namespace Sys2Proof

/-- Why a number or a text is no command. Each is raised by a decoder below, never by the running machine: safe. -/
inductive DecodeError where
  /-- The number has more than `3 + DATA_WIDTH` bits (raised by `decodeCmd`). -/
  | tooWide
  /-- The line's first word names no operation (raised by `parseLine`). -/
  | unknownOperation
  /-- The operation's operands are missing, too many, or not of the form `0x..` or, for a request, `0` or `1`
  (raised by `parseLine`). -/
  | badOperand
  /-- What follows `*` is not a decimal number (raised by `parseLine`). -/
  | badCount
  deriving DecidableEq, Repr

/-! ## Inputs and operations -/

/-- Decode (R50, R51): total over all inputs, `reset` first, then the two requests. -/
def decode (v : Inputs) : Instr :=
  if v.reset = false then .reset v.writeRequest v.readRequest v.dataIn
  else if v.writeRequest = false ∧ v.readRequest = false then .idle v.dataIn
  else if v.writeRequest = false ∧ v.readRequest = true then .read v.dataIn
  else if v.writeRequest = true ∧ v.readRequest = false then .write v.dataIn
  else .readWrite v.dataIn

/-- The input vector that asks for an operation (the table of R50 read from left to right). -/
def encode : Instr → Inputs
  | .reset w r d => { reset := false, writeRequest := w, readRequest := r, dataIn := d }
  | .idle d => { reset := true, writeRequest := false, readRequest := false, dataIn := d }
  | .read d => { reset := true, writeRequest := false, readRequest := true, dataIn := d }
  | .write d => { reset := true, writeRequest := true, readRequest := false, dataIn := d }
  | .readWrite d => { reset := true, writeRequest := true, readRequest := true, dataIn := d }

/-! ## The control word and the command word -/

/-- `ctl = {reset, write_request, read_request}`, three bits (R48). -/
def ctlWord (v : Inputs) : Nat := 4 * v.reset.toNat + 2 * v.writeRequest.toNat + v.readRequest.toNat

/-- The input vector with control word `ctl` (its bits 2, 1, 0) and `data_in` beside it (R48). -/
def inputsOfCtl (ctl : Nat) (d : Nat) : Inputs :=
  { reset := ctl.testBit 2, writeRequest := ctl.testBit 1, readRequest := ctl.testBit 0, dataIn := d }

/-- `cmd = {ctl[2:0], data_in[width-1:0]}` (R49): an operation as a number of `3 + width` bits. -/
def encodeCmd (width : Nat) (i : Instr) : Nat := ctlWord (encode i) * 2 ^ width + i.dataIn

/-- The operation of a command word of `3 + width` bits (R49, R50); every such word has one, and a longer number is
rejected by name. -/
def decodeCmd (width : Nat) (w : Nat) : Except DecodeError Instr :=
  if w < 2 ^ (3 + width) then .ok (decode (inputsOfCtl (w / 2 ^ width) (w % 2 ^ width))) else .error .tooWide

/-! ## The operation table -/

/-- One row of the operation table (R50): an operation's mask and match over `ctl`. -/
structure TableRow where
  mask : Nat
  pattern : Nat
  deriving DecidableEq, Repr

/-- `ctl` falls under the row (R50). -/
def TableRow.covers (row : TableRow) (ctl : Nat) : Bool := ctl &&& row.mask == row.pattern

/-- The row of an operation, as the table of R50 prints it. -/
def Instr.tableRow : Instr → TableRow
  | .reset _ _ _ => { mask := 0b100, pattern := 0b000 }
  | .idle _ => { mask := 0b111, pattern := 0b100 }
  | .read _ => { mask := 0b111, pattern := 0b101 }
  | .write _ => { mask := 0b111, pattern := 0b110 }
  | .readWrite _ => { mask := 0b111, pattern := 0b111 }

/-- The five rows in the table's order (R50). -/
def operationTable : List TableRow :=
  [(Instr.reset false false 0).tableRow, (Instr.idle 0).tableRow, (Instr.read 0).tableRow, (Instr.write 0).tableRow,
    (Instr.readWrite 0).tableRow]

/-- The input vector numbered as spec/opcode_table.json numbers a row: `ctl` in bits 2 to 0, and `data_in`, which the
table carries beside `ctl`, in the bits above it. At most the reference configuration's 8 bits of `data_in` are taken.
DESIGN CHOICE (log entry 11). -/
def tableInputs (nbits w : Nat) : Option Inputs :=
  let n := w % 2 ^ nbits
  if Fits Config.reference.dataWidth (n / 8) then some (inputsOfCtl (n % 8) (n / 8)) else none

/-- The operation this decoder reads from the table's number `w` of a row (log entry 11). -/
def decodeTableWord (nbits w : Nat) : Option Instr := (tableInputs nbits w).map decode

/-! ## Written runs -/

/-- The operations a line stands for (R57, R58); the canonical forms have every ignored input 0 (R51, R53). -/
def Line.expand : Line → List Instr
  | .reset => [.reset false false 0]
  | .resetWith w r v => [.reset w r v]
  | .idle => [.idle 0]
  | .read => [.read 0]
  | .write v => [.write v]
  | .readWrite v => [.readWrite v]
  | .nop => [.idle 0]
  | .push v => [.write v]
  | .pop => [.read 0]
  | .times op n => (List.replicate n op.expand).flatten

/-- The words of a line: `;` starts a comment, blanks separate words, `*` is a word of its own (R57, R58). -/
def lineWords : List Char → List Char → List (List Char)
  | acc, [] => if acc = [] then [] else [acc.reverse]
  | acc, c :: cs =>
    if c = ';' then (if acc = [] then [] else [acc.reverse])
    else if c = ' ' then (if acc = [] then [] else [acc.reverse]) ++ lineWords [] cs
    else if c = '*' then (if acc = [] then [] else [acc.reverse]) ++ [['*']] ++ lineWords [] cs
    else lineWords (c :: acc) cs

/-- The value of one digit in a base up to 16. -/
def digitOf (base : Nat) (c : Char) : Option Nat :=
  let n := c.toNat
  let d := if 48 ≤ n ∧ n ≤ 57 then some (n - 48) else if 65 ≤ n ∧ n ≤ 70 then some (n - 55)
    else if 97 ≤ n ∧ n ≤ 102 then some (n - 87) else none
  d.filter (· < base)

/-- The value of digits after the value `acc` of those already read. -/
def digitsFrom (base : Nat) : Nat → List Char → Option Nat
  | acc, [] => some acc
  | acc, c :: cs => (digitOf base c).bind fun d => digitsFrom base (acc * base + d) cs

/-- A number of at least one digit. -/
def numberOf (base : Nat) (cs : List Char) : Option Nat := if cs = [] then none else digitsFrom base 0 cs

/-- A value `0x..` (R57). -/
def valueOf : List Char → Option Nat
  | '0' :: 'x' :: cs => numberOf 16 cs
  | _ => none

/-- A request bit `0` or `1` (R57, `RESET w r v`). -/
def requestOf : List Char → Option Bool
  | ['0'] => some false
  | ['1'] => some true
  | _ => none

/-- A line that writes one value. -/
def lineWithValue (f : Nat → Line) : List (List Char) → Except DecodeError Line
  | [v] => match valueOf v with
    | some x => .ok (f x)
    | none => .error .badOperand
  | _ => .error .badOperand

/-- A line without operands. -/
def lineWithout (l : Line) : List (List Char) → Except DecodeError Line
  | [] => .ok l
  | _ => .error .badOperand

/-- The RESET line, with or without the three ignored inputs (R57). -/
def lineOfReset : List (List Char) → Except DecodeError Line
  | [] => .ok .reset
  | [w, r, v] => match requestOf w, requestOf r, valueOf v with
    | some a, some b, some x => .ok (.resetWith a b x)
    | _, _, _ => .error .badOperand
  | _ => .error .badOperand

/-- One operation and its operands (R57, R58). -/
def lineOfOperation (op : List Char) (args : List (List Char)) : Except DecodeError Line :=
  if op = ['R', 'E', 'S', 'E', 'T'] then lineOfReset args
  else if op = ['I', 'D', 'L', 'E'] then lineWithout .idle args
  else if op = ['R', 'E', 'A', 'D'] then lineWithout .read args
  else if op = ['W', 'R', 'I', 'T', 'E'] then lineWithValue .write args
  else if op = ['R', 'E', 'A', 'D', '_', 'W', 'R', 'I', 'T', 'E'] then lineWithValue .readWrite args
  else if op = ['N', 'O', 'P'] then lineWithout .nop args
  else if op = ['P', 'U', 'S', 'H'] then lineWithValue .push args
  else if op = ['P', 'O', 'P'] then lineWithout .pop args
  else .error .unknownOperation

/-- An operation, then possibly `* n` (R58). -/
def lineOfWords (words : List (List Char)) : Except DecodeError Line :=
  match words with
  | [] => .error .unknownOperation
  | op :: rest =>
    match lineOfOperation op (rest.takeWhile (· ≠ ['*'])) with
    | .error e => .error e
    | .ok l =>
      match rest.dropWhile (· ≠ ['*']) with
      | [] => .ok l
      | [_, n] => match numberOf 10 n with
        | some k => .ok (.times l k)
        | none => .error .badCount
      | _ => .error .badCount

/-- One written line (R57): `none` for a line that holds only a comment or nothing. -/
def parseLine (text : List Char) : Except DecodeError (Option Line) :=
  match lineWords [] text with
  | [] => .ok none
  | words => match lineOfWords words with
    | .ok l => .ok (some l)
    | .error e => .error e

end Sys2Proof
end

