-- ==== Sys2Proof/Machine/State.lean ====
section
/-! DEFINITION. The machine's state, its state after reset, its ports, and the reasons a step can stop
(spec/10_state.md). -/

namespace Sys2Proof.Machine

/-- Why an edge has no next state. -/
inductive Fault where
  /-- `underflow_before_reset` (R118, D2): a read is admitted (`empty₀ = 0`) on a store with no element, which only a
  state before the first reset edge can show. Raised by READ and READ_WRITE. Safe: the spec gives this no meaning
  (log entry 6). -/
  | underflowBeforeReset
  /-- `push_back` on a store that already holds `DEPTH` elements (spec/00_scope.md section 9: "allowed only when
  `len(Q) < DEPTH`"). Raised by WRITE and READ_WRITE in states that no run reaches. Safe (log entry 7). -/
  | pushPastCapacity
  deriving DecidableEq, Repr

/-- What the model refuses. -/
inductive Refusal where
  /-- An instruction with no meaning yet; raised by no arm of `exec`. Safe. -/
  | notModelled (mnemonic : String)
  /-- `capacity_zero` (R103, D16): construction with `DEPTH = 0`. Raised by `construct`. Safe. -/
  | capacityZero
  /-- Construction with `DATA_WIDTH = 0`, which the parameter's range excludes (R6). Raised by `construct`. Safe
  (log entry 8). -/
  | dataWidthZero
  /-- The list of input vectors has ended: there is no further rising edge (R12). Raised by `step`. Safe
  (log entry 2). -/
  | noInputVector
  /-- An input changed at the instant of a rising edge (R46, D3, U8). Raised by `sampleWave`. Safe. -/
  | inputChangedAtEdge
  /-- An undriven or unknown wire (D14, U9). Raised by `sampleWave`. Safe. -/
  | undrivenInput
  deriving DecidableEq, Repr

/-- The whole state of the block (R13), over any type `α` of elements (R6). Every operation of an edge is written over
this type, for every `α` (log entry 4). -/
structure Block (α : Type) where
  /-- The Bounded Queue Store, front first (R14). -/
  q : List α
  /-- The output register `data_out` (R18). -/
  dataOut : α
  /-- The stored flag `empty` (R19). -/
  empty : Bool
  /-- The stored flag `full` (R19). -/
  full : Bool
  /-- The stored flag `size` (R19). -/
  size : Nat
  deriving DecidableEq, Repr

/-- The state of an instance whose elements are bit vectors of `DATA_WIDTH` bits (R6). `q`, `dataOut`, `empty`, `full`,
`size` are the five items of `Block` (R13). `cfg` holds the constants of the instance (R25; log entry 3), and `pending`
the input vectors of the edges to come, which belong to the environment (R9, R24; log entry 1). -/
structure State where
  cfg : Config
  /-- The Bounded Queue Store, front first (R14). -/
  q : List cfg.Element
  /-- The output register `data_out` (R18). -/
  dataOut : cfg.Element
  /-- The stored flag `empty` (R19). -/
  empty : Bool
  /-- The stored flag `full` (R19). -/
  full : Bool
  /-- The stored flag `size` (R19). -/
  size : Nat
  pending : List Inputs
  deriving DecidableEq, Repr

/-- The state after a reset edge of an instance (R27, R61, R120), with the given vectors to come. -/
def State.afterReset (c : Config) (vs : List Inputs) : State :=
  { cfg := c, q := [], dataOut := c.elemDefault, empty := true, full := false, size := 0, pending := vs }

/-- The machine right after reset (R120), in the reference configuration (R5 to R7; log entry 3), nothing placed
(log entry 1). -/
def State.reset : State := State.afterReset Config.reference []

/-- What the four output ports show (R47), with `data_out` of type `α`. -/
structure Outputs (α : Type) where
  dataOut : α
  full : Bool
  empty : Bool
  size : Nat
  deriving DecidableEq, Repr

/-- The values of `data_out`, `empty`, `full`, `size` at power-on, which the spec leaves open (R28, R117; log
entry 5). -/
structure PowerOn (α : Type) where
  dataOut : α
  empty : Bool
  full : Bool
  size : Nat
  deriving DecidableEq, Repr

end Sys2Proof.Machine
end

