-- ==== Sys2Proof/Machine/Ops.lean ====
section
/-! DEFINITION. The shared operations of an edge, over any type of elements (spec/00_scope.md R6): sequencing, the reset
effect, the admission tests, the read effect and the write effect (spec/40_reset.md R61, spec/41_read_write.md R65 to
R69); and the state of an instance as a block. The block has no exception to take and none to return from
(spec/60_exceptions.md R101, R107, R108). -/

namespace Sys2Proof.Machine

/-! ## Sequencing -/

/-- Go on with the next state, keep a stop. -/
def andThen {σ τ φ ρ : Type} (o : Host.Outcome σ φ ρ) (f : σ → Host.Outcome τ φ ρ) : Host.Outcome τ φ ρ :=
  match o with
  | .next s => f s
  | .fault e => .fault e
  | .refused e => .refused e

/-- View the next state through `f`, keep a stop. -/
def mapOutcome {σ τ φ ρ : Type} (f : σ → τ) (o : Host.Outcome σ φ ρ) : Host.Outcome τ φ ρ :=
  andThen o fun s => .next (f s)

/-! ## The effects of an edge on a block -/

variable {α : Type}

/-- Step 1 (R61): clear the store, set the flags and `data_out`. -/
def Block.clear (p : Params α) (_b : Block α) : Block α :=
  { q := [], dataOut := p.elemDefault, empty := true, full := false, size := 0 }

/-- `did_read` (R66): requested, and not empty before the edge. -/
def readAdmitted (readRequest empty0 : Bool) : Bool := readRequest && !empty0

/-- `did_write` (R67): requested, and not full before the edge. -/
def writeAdmitted (writeRequest full0 : Bool) : Bool := writeRequest && !full0

/-- The front `x` goes to `data_out` and `rest` stays (R68). -/
def Block.latch (b : Block α) (x : α) (rest : List α) : Block α := { b with q := rest, dataOut := x }

/-- `v` is appended at the back (R69). -/
def Block.append (b : Block α) (v : α) : Block α := { b with q := b.q ++ [v] }

/-- `data_out <- front(Q); pop_front(Q)` (R68); on a store with no element, the fault of R118. -/
def popFront (b : Block α) : Host.Outcome (Block α) Fault Refusal :=
  match b.q with
  | [] => .fault .underflowBeforeReset
  | x :: rest => .next (b.latch x rest)

/-- `push_back(Q, v)`, "allowed only when `len(Q) < DEPTH`" (spec/00_scope.md section 9, R69). -/
def pushBack (p : Params α) (v : α) (b : Block α) : Host.Outcome (Block α) Fault Refusal :=
  if b.q.length < p.depth then .next (b.append v) else .fault .pushPastCapacity

/-- Step 3 (R68): the read effect, if the read is admitted. -/
def readEffect (didRead : Bool) (b : Block α) : Host.Outcome (Block α) Fault Refusal :=
  if didRead then popFront b else .next b

/-- Step 4 (R69): the write effect, if the write is admitted. -/
def writeEffect (p : Params α) (didWrite : Bool) (v : α) (b : Block α) : Host.Outcome (Block α) Fault Refusal :=
  if didWrite then pushBack p v b else .next b

/-- What the output ports show (R29, R47). -/
def Block.outputs (b : Block α) : Outputs α := { dataOut := b.dataOut, full := b.full, empty := b.empty, size := b.size }

/-! ## The state of an instance as a block -/

/-- The block in a state (R13). -/
def State.block (s : State) : Block s.cfg.Element :=
  { q := s.q, dataOut := s.dataOut, empty := s.empty, full := s.full, size := s.size }

/-- The same instance and the same vectors to come, with another block. -/
abbrev State.withBlock (s : State) (b : Block s.cfg.Element) : State :=
  { s with q := b.q, dataOut := b.dataOut, empty := b.empty, full := b.full, size := b.size }

/-- An operation on the block of a state. -/
def State.onBlock (s : State) (f : Block s.cfg.Element → Host.Outcome (Block s.cfg.Element) Fault Refusal) :
    Host.Outcome State Fault Refusal :=
  mapOutcome s.withBlock (f s.block)

/-- What the environment sees after an edge (R29, R47), `data_out` as the number its bits make. -/
def State.outputs (s : State) : Outputs Nat :=
  { dataOut := s.dataOut.toNat, full := s.full, empty := s.empty, size := s.size }

/-- The elements of the store as numbers, front first (R14). -/
def State.contents (s : State) : List Nat := s.q.map BitVec.toNat

/-- The `SIZE_WIDTH`-bit port `size` (R8, R47). -/
def State.sizePort (s : State) : BitVec s.cfg.sizeWidth := BitVec.ofNat s.cfg.sizeWidth s.size

end Sys2Proof.Machine
end

