-- ==== Sys2Proof/Machine/Operands.lean ====
section
/-! DEFINITION. The one operand, `data_in` (spec/30_encoding.md R52, R53), the data port that carries it
(spec/00_scope.md R6, R47), and the canonical form of an operation, in which every input it ignores is 0 (R51, R53). -/

namespace Sys2Proof

/-- What the `DATA_WIDTH` wires of `data_in` carry when the number `d` is put on them (R6, R47): its low `DATA_WIDTH`
bits, which are all of a well-formed vector's. DESIGN CHOICE (log entry 4). -/
def Config.port (c : Config) (d : Nat) : c.Element := BitVec.ofNat c.dataWidth d

/-- The same inputs with `data_in` seen through `f`. -/
def Sample.map {α β : Type} (f : α → β) (v : Sample α) : Sample β :=
  { reset := v.reset, writeRequest := v.writeRequest, readRequest := v.readRequest, dataIn := f v.dataIn }

namespace Machine

/-- The value a write appends: `data_in` exactly as sampled, not extended, truncated, shifted or scaled (R52). -/
def writeOperand {α : Type} (dataIn : α) : α := dataIn

/-- The operation uses `data_in` (the table of R50). -/
def usesDataIn : Instr → Bool
  | .reset _ _ _ => false
  | .idle _ => false
  | .read _ => false
  | .write _ => true
  | .readWrite _ => true

/-- The operation with every input it ignores at 0: its canonical command word (R51, R53). -/
def canonical : Instr → Instr
  | .reset _ _ _ => .reset false false 0
  | .idle _ => .idle 0
  | .read _ => .read 0
  | .write d => .write d
  | .readWrite d => .readWrite d

/-- The same operation with another value on `data_in`. -/
def withDataIn (d : Nat) : Instr → Instr
  | .reset w r _ => .reset w r d
  | .idle _ => .idle d
  | .read _ => .read d
  | .write _ => .write d
  | .readWrite _ => .readWrite d

end Machine

end Sys2Proof
end

