-- ==== Sys2Proof/Machine/Flags.lean ====
section
/-! DEFINITION. The flag functions and the flag update (spec/42_flags.md R79 to R81), the edge without reset that READ,
WRITE, READ_WRITE and IDLE share (spec/41_read_write.md R65 to R69), and the whole edge (spec/30_encoding.md R60), over
any type of elements (spec/00_scope.md R6). -/

namespace Sys2Proof.Machine

variable {α : Type}

/-- `flag_size(Q) = len(Q)` (R80). -/
def flagSize (q : List α) : Nat := q.length

/-- `flag_empty(Q) = (len(Q) == 0)` (R80). -/
def flagEmpty (q : List α) : Bool := q.length == 0

/-- `flag_full(Q) = (len(Q) == DEPTH)` (R80). -/
def flagFull (depth : Nat) (q : List α) : Bool := q.length == depth

/-- All three flags from the store as it stands (R79, R80). -/
def Block.recomputeFlags (p : Params α) (b : Block α) : Block α :=
  { b with size := flagSize b.q, empty := flagEmpty b.q, full := flagFull p.depth b.q }

/-- Step 5 (R79, R81): recompute the flags if a read or a write was applied, otherwise leave them unchanged. -/
def updateFlags (p : Params α) (mutated : Bool) (b : Block α) : Block α := if mutated then b.recomputeFlags p else b

/-- Steps 2 to 5 (R65 to R69, R79): both admission tests on the flags as they stood before the edge, the read effect,
the write effect, one flag update. -/
def normalEdge (p : Params α) (readRequest writeRequest : Bool) (v : α) (b : Block α) :
    Host.Outcome (Block α) Fault Refusal :=
  let didRead := readAdmitted readRequest b.empty
  let didWrite := writeAdmitted writeRequest b.full
  andThen (readEffect didRead b) fun b₁ =>
    andThen (writeEffect p didWrite (writeOperand v) b₁) fun b₂ =>
      .next (updateFlags p (didRead || didWrite) b₂)

/-- One rising edge (R60): a reset edge clears, every other edge does steps 2 to 5. -/
def Block.step (p : Params α) (v : Sample α) (b : Block α) : Host.Outcome (Block α) Fault Refusal :=
  if v.reset = false then .next (b.clear p) else normalEdge p v.readRequest v.writeRequest v.dataIn b

end Sys2Proof.Machine
end

