-- ==== Sys2Proof/Machine/QueueFamily.lean ====
section
/-! DEFINITION. The meanings of IDLE, READ, WRITE and READ_WRITE (spec/41_read_write.md R70 to R73): the four values of
the two requests at an edge without reset. -/

namespace Sys2Proof.Machine

/-- IDLE (R70): neither request; `data_in` is ignored (R53). -/
def execIdle (dataIn : Nat) (s : State) : Host.Outcome State Fault Refusal :=
  s.onBlock (normalEdge s.cfg.params false false (s.cfg.port dataIn))

/-- READ (R71): dequeue one element if there is one; `data_in` is ignored (R53). -/
def execRead (dataIn : Nat) (s : State) : Host.Outcome State Fault Refusal :=
  s.onBlock (normalEdge s.cfg.params true false (s.cfg.port dataIn))

/-- WRITE (R72): enqueue `data_in` if there is room. -/
def execWrite (dataIn : Nat) (s : State) : Host.Outcome State Fault Refusal :=
  s.onBlock (normalEdge s.cfg.params false true (s.cfg.port dataIn))

/-- READ_WRITE (R73): dequeue one element if there was one and enqueue `data_in` if there was room, both judged on the
flags before the edge. -/
def execReadWrite (dataIn : Nat) (s : State) : Host.Outcome State Fault Refusal :=
  s.onBlock (normalEdge s.cfg.params true true (s.cfg.port dataIn))

end Sys2Proof.Machine
end

