-- ==== Sys2Proof/Machine/ResetFamily.lean ====
section
/-! DEFINITION. The meaning of RESET (spec/40_reset.md R61 to R64). -/

namespace Sys2Proof.Machine

/-- RESET (R61, R62): clear the queue, whatever the state before; the two requests and `data_in` are ignored. -/
def execReset (_writeRequest _readRequest : Bool) (_dataIn : Nat) (s : State) : Host.Outcome State Fault Refusal :=
  s.onBlock fun b => .next (b.clear s.cfg.params)

end Sys2Proof.Machine
end

