-- ==== Sys2Proof/Machine/Dispatch.lean ====
section
/-! DEFINITION. One arm per operation (spec/30_encoding.md R50). -/

namespace Sys2Proof.Machine

/-- The operation's effect at one rising edge (R60). -/
def exec (i : Instr) (s : State) : Host.Outcome State Fault Refusal :=
  match i with
  | .reset w r d => Sys2Proof.Machine.execReset w r d s
  | .idle d => Sys2Proof.Machine.execIdle d s
  | .read d => Sys2Proof.Machine.execRead d s
  | .write d => Sys2Proof.Machine.execWrite d s
  | .readWrite d => Sys2Proof.Machine.execReadWrite d s

end Sys2Proof.Machine
end

