-- ==== Sys2Proof/Machine/Step.lean ====
section
/-! DEFINITION. One step: one rising edge of `clk` (spec/00_scope.md R10), which samples the next input vector, decodes
it and does its operation. -/

namespace Sys2Proof.Machine

/-- One rising edge (R10, R60): the next input vector of the run is sampled, and its operation done. When the list of
vectors has ended there is no further edge (R12; log entry 2). -/
def step (s : State) : Host.Outcome State Fault Refusal :=
  match s.pending with
  | [] => .refused .noInputVector
  | v :: vs => exec (decode v) { s with pending := vs }

/-- The vector numbered `w` as spec/opcode_table.json numbers a row, put in the place of the next edge's vector (log
entries 1 and 11). -/
def State.withFetchWord (s : State) (nbits w : Nat) : State :=
  match tableInputs nbits w with
  | some v => { s with pending := v :: s.pending.drop 1 }
  | none => s

end Sys2Proof.Machine
end

