-- ==== Sys2Proof/Machine/Construct.lean ====
section
/-! DEFINITION. Construction of an instance and its power-on state (spec/60_exceptions.md R103,
spec/70_reset_and_hazards.md R117). -/

namespace Sys2Proof.Machine

/-- The block after construction and before the first edge (R17, R28, R117): the store is empty, the four outputs hold
whatever `p` says. Power-on values are an argument, so a statement holds for every draw (R119; log entry 5). -/
def Block.powerOn {α : Type} (p : PowerOn α) : Block α :=
  { q := [], dataOut := p.dataOut, empty := p.empty, full := p.full, size := p.size }

/-- The state of an instance after construction and before the first edge (R28, R117), nothing placed. -/
def State.powerOn (c : Config) (p : PowerOn c.Element) : State := (State.afterReset c []).withBlock (Block.powerOn p)

/-- Construction, validated once (R6, R103, R123): a capacity of zero and a data port without wires are refused and
yield no instance (log entry 8). -/
def construct (depth dataWidth : Nat) (elemDefault : BitVec dataWidth) (p : PowerOn (BitVec dataWidth)) :
    Host.Outcome State Fault Refusal :=
  if hd : 1 ≤ depth then
    if hw : 1 ≤ dataWidth then
      .next (State.powerOn
        { depth := depth, dataWidth := dataWidth, elemDefault := elemDefault, depth_pos := hd, width_pos := hw } p)
    else .refused .dataWidthZero
  else .refused .capacityZero

end Sys2Proof.Machine
end

