-- ==== Sys2Proof/Machine/Circular.lean ====
section
/-! DEFINITION. The optional concrete representation of the store as a circular buffer (spec/43_circular_buffer.md R91
to R98), over any type of elements: a machine of its own beside the normative one, with the function that maps it back
to the sequence (log entry 13). -/

namespace Sys2Proof.Machine

/-- The concrete state (R91): the cell array, the two indices and the count, which the rule types as naturals, and the
outputs of R13. Their ranges are `Circ.Inv`, and the pointers in their width are `Circ.headBits` and `Circ.tailBits`. -/
structure Circ (α : Type) where
  mem : List α
  head : Nat
  tail : Nat
  count : Nat
  dataOut : α
  empty : Bool
  full : Bool
  size : Nat
  deriving DecidableEq, Repr

variable {α : Type}

/-- `MemRead(a, 1)` (spec/00_scope.md section 9): the content of cell `a`. -/
def Circ.readCell (p : Params α) (c : Circ α) (a : Nat) : α := c.mem.getD a p.elemDefault

/-- `MemWrite(a, 1, v)`: `v` goes to cell `a`. -/
def Circ.writeCell (c : Circ α) (a : Nat) (v : α) : Circ α := { c with mem := c.mem.set a v }

/-- `(a + 1) mod DEPTH` (R95). -/
def Circ.advance (p : Params α) (a : Nat) : Nat := (a + 1) % p.depth

/-- The pointer width `ceil(log2(DEPTH))` (R91): the number of binary digits of the largest index `DEPTH - 1`, which is 0
when `DEPTH = 1`. -/
def Circ.pointerWidth (p : Params α) : Nat := if p.depth = 1 then 0 else Nat.log2 (p.depth - 1) + 1

/-- An index in the pointer width (R91). -/
def Circ.pointerBits (p : Params α) (a : Nat) : BitVec (Circ.pointerWidth p) := BitVec.ofNat (Circ.pointerWidth p) a

/-- The register `head`, in the pointer width (R91). -/
def Circ.headBits (p : Params α) (c : Circ α) : BitVec (Circ.pointerWidth p) := Circ.pointerBits p c.head

/-- The register `tail`, in the pointer width (R91). -/
def Circ.tailBits (p : Params α) (c : Circ α) : BitVec (Circ.pointerWidth p) := Circ.pointerBits p c.tail

/-- The sequence a concrete store stands for, `abs(mem, head, count)` (R92). -/
def Circ.elements (p : Params α) (c : Circ α) : List α :=
  (List.range c.count).map fun i => c.readCell p ((c.head + i) % p.depth)

/-- The abstract block a concrete state stands for (R99). -/
def Circ.toBlock (p : Params α) (c : Circ α) : Block α :=
  { q := c.elements p, dataOut := c.dataOut, empty := c.empty, full := c.full, size := c.size }

/-- The concrete invariant (R93), and that the array has exactly `DEPTH` cells (R91). -/
abbrev Circ.Inv (p : Params α) (c : Circ α) : Prop :=
  c.mem.length = p.depth ∧ c.count ≤ p.depth ∧ c.head < p.depth ∧ c.tail = (c.head + c.count) % p.depth

/-- The state after construction: any cells, any outputs (R91, R117, U10), and both indices and the count 0, which is
DEDUCED (log entry 13). -/
def Circ.powerOn (cells : List α) (w : PowerOn α) : Circ α :=
  { mem := cells, head := 0, tail := 0, count := 0, dataOut := w.dataOut, empty := w.empty, full := w.full,
    size := w.size }

/-- RESET over the concrete store (R94): the cells are not written. -/
def Circ.clear (p : Params α) (c : Circ α) : Circ α :=
  { c with head := 0, tail := 0, count := 0, dataOut := p.elemDefault, empty := true, full := false, size := 0 }

/-- The read effect (R95); with no valid cell, the fault of R118. -/
def Circ.readEffect (p : Params α) (didRead : Bool) (c : Circ α) : Host.Outcome (Circ α) Fault Refusal :=
  if didRead then
    if c.count = 0 then .fault .underflowBeforeReset
    else .next { c with dataOut := c.readCell p c.head, head := Circ.advance p c.head, count := c.count - 1 }
  else .next c

/-- The write effect (R95); with every cell valid, `push_back` is not allowed (spec/00_scope.md section 9). -/
def Circ.writeEffect (p : Params α) (didWrite : Bool) (v : α) (c : Circ α) : Host.Outcome (Circ α) Fault Refusal :=
  if didWrite then
    if c.count < p.depth then
      .next { c.writeCell c.tail v with tail := Circ.advance p c.tail, count := c.count + 1 }
    else .fault .pushPastCapacity
  else .next c

/-- The flag update with `len(Q)` read as `count` (R79, R95). -/
def Circ.updateFlags (p : Params α) (mutated : Bool) (c : Circ α) : Circ α :=
  if mutated then { c with size := c.count, empty := c.count == 0, full := c.count == p.depth } else c

/-- An edge without reset over the concrete store (R95): tests and flag update unchanged. -/
def Circ.normalEdge (p : Params α) (readRequest writeRequest : Bool) (v : α) (c : Circ α) :
    Host.Outcome (Circ α) Fault Refusal :=
  let didRead := readAdmitted readRequest c.empty
  let didWrite := writeAdmitted writeRequest c.full
  andThen (c.readEffect p didRead) fun c₁ =>
    andThen (c₁.writeEffect p didWrite (writeOperand v)) fun c₂ =>
      .next (c₂.updateFlags p (didRead || didWrite))

/-- The concrete step (R94, R95). -/
def Circ.step (p : Params α) (v : Sample α) (c : Circ α) : Host.Outcome (Circ α) Fault Refusal :=
  if v.reset = false then .next (c.clear p) else c.normalEdge p v.readRequest v.writeRequest v.dataIn

end Sys2Proof.Machine
end

