-- ==== Sys2Proof/Machine/Derived.lean ====
section
/-! DEFINITION. The reduced machine of spec/42_flags.md R87, over any type of elements: only the store and `data_out`
are kept, and the flags are functions of the store. -/

namespace Sys2Proof.Machine

/-- `(Q, data_out)` (R87). -/
structure QueueView (α : Type) where
  q : List α
  dataOut : α
  deriving DecidableEq, Repr

variable {α : Type}

/-- The part of a block that the reduced machine keeps. -/
def Block.view (b : Block α) : QueueView α := { q := b.q, dataOut := b.dataOut }

/-- The outputs computed from the store (R80, R87). -/
def QueueView.outputs (p : Params α) (w : QueueView α) : Outputs α :=
  { dataOut := w.dataOut, full := flagFull p.depth w.q, empty := flagEmpty w.q, size := flagSize w.q }

/-- An edge without reset: both tests on the store before the edge, never on the store after the read effect
(R67, R87). -/
def QueueView.normalEdge (p : Params α) (readRequest writeRequest : Bool) (v : α) (w : QueueView α) : QueueView α :=
  let full0 := flagFull p.depth w.q
  let afterRead : QueueView α :=
    match readRequest, w.q with
    | true, x :: rest => { q := rest, dataOut := x }
    | _, _ => w
  if writeAdmitted writeRequest full0 then { afterRead with q := afterRead.q ++ [writeOperand v] } else afterRead

/-- The step of the reduced machine, total (R87). -/
def QueueView.step (p : Params α) (v : Sample α) (w : QueueView α) : QueueView α :=
  if v.reset = false then { q := [], dataOut := p.elemDefault }
  else w.normalEdge p v.readRequest v.writeRequest v.dataIn

end Sys2Proof.Machine
end

