-- ==== Sys2Proof/Machine/Run.lean ====
section
/-! DEFINITION. Runs: a finite list of input vectors applied from a state, what the environment observes, and which
values pass through the queue (spec/00_scope.md R12, spec/20_memory.md R43). -/

namespace Sys2Proof.Machine

/-- The state after the edges of a list of input vectors, one after another (R12, R40). -/
def runInputs : List Inputs → State → Host.Outcome State Fault Refusal
  | [], s => .next s
  | v :: vs, s => andThen (exec (decode v) s) (runInputs vs)

/-- The outputs after each edge, up to a stop (R12). -/
def observe : List Inputs → State → List (Outputs Nat)
  | [], _ => []
  | v :: vs, s =>
    match exec (decode v) s with
    | .next t => t.outputs :: observe vs t
    | .fault _ => []
    | .refused _ => []

/-- At an edge with inputs `v` after which outputs `o` were last seen, a read is admitted: known to the environment from
what it drives and what it saw (R23, R131). -/
def readPredicted (o : Outputs Nat) (v : Inputs) : Bool := v.reset && readAdmitted v.readRequest o.empty

/-- The same for a write (R23, R131). -/
def writePredicted (o : Outputs Nat) (v : Inputs) : Bool := v.reset && writeAdmitted v.writeRequest o.full

/-- The values of the admitted writes of a run, in order (R43), as the data port carried them. -/
def enqueued : List Inputs → State → List Nat
  | [], _ => []
  | v :: vs, s =>
    match exec (decode v) s with
    | .next t => (if writePredicted s.outputs v then [(s.cfg.port v.dataIn).toNat] else []) ++ enqueued vs t
    | .fault _ => []
    | .refused _ => []

/-- The values that admitted reads put on `data_out` in a run, in order (R43): what the environment takes for dequeued
elements. -/
def dequeued : List Inputs → State → List Nat
  | [], _ => []
  | v :: vs, s =>
    match exec (decode v) s with
    | .next t => (if readPredicted s.outputs v then [t.outputs.dataOut] else []) ++ dequeued vs t
    | .fault _ => []
    | .refused _ => []

/-- Every input vector of the list has reset deasserted. -/
abbrev ResetFree (vs : List Inputs) : Prop := ∀ v ∈ vs, v.reset = true

end Sys2Proof.Machine
end

