-- ==== Sys2Proof/Machine/Pins.lean ====
section
/-! DEFINITION. The wires over time, and their sampling at rising edges of `clk` (spec/20_memory.md R46,
spec/40_reset.md R64, spec/70_reset_and_hazards.md R129, R136; log entry 10). -/

namespace Sys2Proof.Machine

/-- The level of a wire; `undriven` stands for every value that is neither 0 nor 1 (D14). -/
inductive Level where
  | low
  | high
  | undriven
  deriving DecidableEq, Repr

/-- The bit on a driven wire (D14). -/
def Level.bit : Level → Option Bool
  | .low => some false
  | .high => some true
  | .undriven => none

/-- What all input wires carry at one moment (R47); `dataIn` is `none` while the data port is not driven. -/
structure Pins where
  clk : Level
  reset : Level
  writeRequest : Level
  readRequest : Level
  dataIn : Option Nat
  deriving DecidableEq, Repr

/-- The input vector on the wires, if all four inputs are driven (D14). -/
def Pins.sample (p : Pins) : Option Inputs :=
  match p.reset.bit, p.writeRequest.bit, p.readRequest.bit, p.dataIn with
  | some r, some w, some rd, some d => some { reset := r, writeRequest := w, readRequest := rd, dataIn := d }
  | _, _, _, _ => none

/-- Between two moments `clk` rises: it is 0, then 1 (R136). `none` if `clk` is not driven. -/
def clkRises (before after : Level) : Option Bool :=
  match before.bit, after.bit with
  | some b, some a => some (!b && a)
  | _, _ => none

/-- The input vectors that the block samples while its wires pass through the listed moments, starting from `p`: at each
rising edge the values the inputs have settled to before it, and nothing at any other time (R46, D3). Inputs that change
at the instant of a rising edge, and wires that are not driven, are refused (U8, U9). -/
def sampleWave : Pins → List Pins → Host.Outcome (List Inputs) Fault Refusal
  | _, [] => .next []
  | p, n :: rest =>
    match clkRises p.clk n.clk with
    | none => .refused .undrivenInput
    | some false => sampleWave n rest
    | some true =>
      match p.sample with
      | none => .refused .undrivenInput
      | some v =>
        if n.sample = some v then mapOutcome (fun vs => v :: vs) (sampleWave n rest)
        else .refused .inputChangedAtEdge

/-- The state with the vectors sampled from a waveform placed after those already to come (log entry 1). -/
def State.drive (s : State) (p : Pins) (wave : List Pins) : Host.Outcome State Fault Refusal :=
  mapOutcome (fun vs => { s with pending := s.pending ++ vs }) (sampleWave p wave)

end Sys2Proof.Machine
end

