-- ==== Sys2Proof/Safety.lean ====
section
/-! DEFINITION. The predicates in whose terms claims are made: consistent states (spec/10_state.md R21), states a run
from power-on can show (spec/70_reset_and_hazards.md R118), data that fits the port, the launch premise (R122), and
renaming of elements (spec/00_scope.md R6). -/

namespace Sys2Proof.Machine

/-- The store holds at most `DEPTH` elements (R15). -/
abbrev WithinCapacity (s : State) : Prop := s.q.length ≤ s.cfg.depth

/-- `Cons(S)` (R21): within capacity, and the stored flags equal the values derived from the store. -/
abbrev Consistent (s : State) : Prop :=
  s.q.length ≤ s.cfg.depth ∧ s.size = s.q.length ∧ s.empty = (s.q.length == 0) ∧ s.full = (s.q.length == s.cfg.depth)

/-- A state as a run from power-on shows it, before or after the first reset edge (R117, R118): the store is empty and
the flags are arbitrary, or the state is consistent. -/
abbrev FromPowerOn (s : State) : Prop := s.q = [] ∨ Consistent s

/-- Everything the machine holds and shows of data has `DATA_WIDTH` bits (R6, R47): the numbers of the store, `data_out`
and the default value, which the type of an element sees to, and `data_in` of the vectors to come. -/
abbrev DataFits (s : State) : Prop :=
  Fits s.cfg.dataWidth s.cfg.elemDefault.toNat ∧ Fits s.cfg.dataWidth s.outputs.dataOut ∧
    (∀ x ∈ s.contents, Fits s.cfg.dataWidth x) ∧ ∀ v ∈ s.pending, v.WellFormed s.cfg.dataWidth

/-- The launch premise (R122): the first input vector of the run decodes to RESET, whose wire is 0. -/
def StartsWithReset : List Inputs → Bool
  | [] => false
  | v :: _ => !v.reset

variable {α β : Type}

/-- The parameters with another name for the default value (R6). -/
def renameParams (f : α → β) (p : Params α) : Params β :=
  { depth := p.depth, elemDefault := f p.elemDefault, depth_pos := p.depth_pos }

/-- Every element of a block renamed, possibly into another type of elements (R6). -/
def Block.rename (f : α → β) (b : Block α) : Block β :=
  { q := b.q.map f, dataOut := f b.dataOut, empty := b.empty, full := b.full, size := b.size }

end Sys2Proof.Machine
end

