-- ==== Sys2Proof/Certificates/Slice0/Obligations.lean ====
section
/-! DEFINITION. The statements for the provers. Each docstring names the rules of spec/ it formalises. Throughout,
`s.cfg.port d` is the element sampled when a vector puts the number `d` on the `DATA_WIDTH` wires of `data_in` (R47): `d`
itself, bit for bit, for every `d` of a well-formed vector (log entry 4; `StoredDataIsExact`). -/

open Sys2Proof Sys2Proof.Machine

/-! ## Reset, construction, power-on -/

/-- R27, R120, of `State.reset`; its configuration is the reference one, the model's choice (log entry 3). -/
def Obligations.ResetStateHoldsStatedValues : Prop :=
  State.reset.q = [] ∧ State.reset.empty = true ∧ State.reset.full = false ∧ State.reset.size = 0 ∧
    State.reset.dataOut = State.reset.cfg.elemDefault ∧ State.reset.cfg = Config.reference

/-- R61, R62, R27: the wire at 0 decodes to RESET whatever else is on the inputs, the canonical word is 0, and RESET leaves one
fixed state from every state (the order of the bits in a word is the spec's own choice, D8). -/
def Obligations.ResetClearsEveryState : Prop :=
  (∀ v : Inputs, v.reset = false → decode v = .reset v.writeRequest v.readRequest v.dataIn) ∧
    encodeCmd 8 (.reset false false 0) = 0x000 ∧
    ∀ (w r : Bool) (d : Nat) (s : State),
      exec (.reset w r d) s =
        .next { cfg := s.cfg, q := [], dataOut := s.cfg.elemDefault, empty := true, full := false, size := 0,
                pending := s.pending }

/-- R63: any positive number of reset edges leaves what one leaves. -/
def Obligations.RepeatedResetIsOneReset : Prop :=
  ∀ (vs : List Inputs) (s : State), vs ≠ [] → (∀ v ∈ vs, v.reset = false) →
    runInputs vs s = .next (State.afterReset s.cfg s.pending)

/-- R103, as a refusal (D16, log entry 8), with R28's state (D1, log entry 5): `DEPTH = 0` yields no instance, nor does
`DATA_WIDTH = 0`, which the range of R6 excludes (that it is refused by name is the model's choice, log entry 8); every
other capacity and width yield an empty store and whatever outputs power-on draws. -/
def Obligations.ConstructionRefusesZeroCapacity : Prop :=
  (∀ (w : Nat) (e : BitVec w) (p : PowerOn (BitVec w)), construct 0 w e p = .refused .capacityZero) ∧
    (∀ (n : Nat) (e : BitVec 0) (p : PowerOn (BitVec 0)), 1 ≤ n → construct n 0 e p = .refused .dataWidthZero) ∧
    ∀ (n w : Nat) (e : BitVec w) (p : PowerOn (BitVec w)) (hn : 1 ≤ n) (hw : 1 ≤ w),
      construct n w e p =
        .next { cfg := { depth := n, dataWidth := w, elemDefault := e, depth_pos := hn, width_pos := hw }, q := [],
                dataOut := p.dataOut, empty := p.empty, full := p.full, size := p.size, pending := [] }

/-- R118, row by row, which is the spec's decision (D1, D2, log entries 5 and 6): operations on an empty store under flags that power-on drew. -/
def Obligations.EdgesBeforeFirstReset : Prop :=
  ∀ (s : State) (d : Nat), s.q = [] →
    exec (.idle d) s = .next s ∧
    (s.full = false → ∃ t, exec (.write d) s = .next t ∧ Consistent t ∧
      t = { s with q := [s.cfg.port d], size := 1, empty := false, full := (s.cfg.depth == 1) }) ∧
    (s.full = true → exec (.write d) s = .next s) ∧
    (s.empty = true → exec (.read d) s = .next s) ∧
    (s.empty = false → exec (.read d) s = .fault .underflowBeforeReset) ∧
    (s.empty = false → exec (.readWrite d) s = .fault .underflowBeforeReset) ∧
    (s.empty = true → s.full = false → ∃ t, exec (.readWrite d) s = .next t ∧ Consistent t ∧
      t = { s with q := [s.cfg.port d], size := 1, empty := false, full := (s.cfg.depth == 1) }) ∧
    (s.empty = true → s.full = true → exec (.readWrite d) s = .next s) ∧
    ∀ w r : Bool, ∃ t, exec (.reset w r d) s = .next t ∧ Consistent t ∧ t = State.afterReset s.cfg s.pending

/-! ## The operations -/

/-- R70: `ctl = 100`, canonical word 0x400, and no state is written, in any state. -/
def Obligations.IdleChangesNothing : Prop :=
  (∀ d : Nat, decode { reset := true, writeRequest := false, readRequest := false, dataIn := d } = .idle d) ∧
    encodeCmd 8 (.idle 0) = 0x400 ∧ ∀ (d : Nat) (s : State), exec (.idle d) s = .next s

/-- R71: encoding, the dropped and the admitted READ, and what its flags show in a consistent state. -/
def Obligations.ReadDequeuesFront : Prop :=
  (∀ d : Nat, decode { reset := true, writeRequest := false, readRequest := true, dataIn := d } = .read d) ∧
    encodeCmd 8 (.read 0) = 0x500 ∧
    (∀ (d : Nat) (s : State), s.empty = true → exec (.read d) s = .next s) ∧
    (∀ (d : Nat) (s : State) (x : s.cfg.Element) (rest : List s.cfg.Element), s.empty = false → s.q = x :: rest →
      exec (.read d) s =
        .next { s with q := rest, dataOut := x, size := rest.length, empty := (rest.length == 0),
                       full := (rest.length == s.cfg.depth) }) ∧
    ∀ (d : Nat) (s : State), Consistent s → s.empty = false →
      ∃ t, exec (.read d) s = .next t ∧ t.full = false ∧ t.size + 1 = s.size ∧ (t.empty = true ↔ s.size = 1)

/-- R72: encoding, the dropped and the admitted WRITE, which appends the element on the port, and what its flags show in a
consistent state. -/
def Obligations.WriteAppendsDataIn : Prop :=
  (∀ d : Nat, decode { reset := true, writeRequest := true, readRequest := false, dataIn := d } = .write d) ∧
    (∀ d < 256, encodeCmd 8 (.write d) = 0x600 ||| d) ∧
    (∀ (d : Nat) (s : State), s.full = true → exec (.write d) s = .next s) ∧
    (∀ (d : Nat) (s : State), s.full = false → s.q.length < s.cfg.depth →
      exec (.write d) s =
        .next { s with q := s.q ++ [s.cfg.port d], size := s.q.length + 1, empty := false,
                       full := (s.q.length + 1 == s.cfg.depth) }) ∧
    ∀ (d : Nat) (s : State), Consistent s → s.full = false →
      ∃ t, exec (.write d) s = .next t ∧ t.empty = false ∧ t.size = s.size + 1 ∧ t.outputs.dataOut = s.outputs.dataOut ∧
        (t.full = true ↔ t.q.length = s.cfg.depth)

/-- R73: encoding (the order of the bits in a word is the spec's own choice, D8), and the operation wherever `front` and
`push_back` are defined: each request is judged on its own flag before the edge, the read effect first. -/
def Obligations.ReadWriteServesByOldFlags : Prop :=
  (∀ d : Nat, decode { reset := true, writeRequest := true, readRequest := true, dataIn := d } = .readWrite d) ∧
    (∀ d < 256, encodeCmd 8 (.readWrite d) = 0x700 ||| d) ∧
    ∀ (d : Nat) (s : State), (s.empty = false → s.q ≠ []) →
      (s.full = false → (if s.empty then s.q else s.q.tail).length < s.cfg.depth) →
      let q1 := if s.empty then s.q else s.q.tail
      let q2 := if s.full then q1 else q1 ++ [s.cfg.port d]
      exec (.readWrite d) s =
        .next { s with
          q := q2
          dataOut := if s.empty then s.dataOut else s.q.headD s.dataOut
          size := if s.empty && s.full then s.size else q2.length
          empty := if s.empty && s.full then s.empty else q2.length == 0
          full := if s.empty && s.full then s.full else q2.length == s.cfg.depth }

/-- The three cases of READ_WRITE in a consistent state, with all three flags (the table of spec/41_read_write.md
section 2, which the spec derives). -/
def Obligations.ReadWriteThreeCases : Prop :=
  ∀ (d : Nat) (s : State), Consistent s →
    (s.q = [] →
      exec (.readWrite d) s =
        .next { s with q := [s.cfg.port d], size := 1, empty := false, full := (s.cfg.depth == 1) }) ∧
    (∀ x rest, s.q = x :: rest → s.q.length < s.cfg.depth →
      exec (.readWrite d) s =
        .next { s with q := rest ++ [s.cfg.port d], dataOut := x, size := s.q.length, empty := false, full := false }) ∧
    (∀ x rest, s.q = x :: rest → s.q.length = s.cfg.depth →
      exec (.readWrite d) s =
        .next { s with q := rest, dataOut := x, size := s.cfg.depth - 1, empty := (s.cfg.depth == 1),
                       full := false })

/-- The whole edge as the spec composes it (spec/30_encoding.md section 8, its derived gathering of the reset effect, the
admission tests, the two effects and the flag update), as one function of the state before the edge and the sampled
inputs, wherever `front` and `push_back` are defined, which every consistent state meets. -/
def Obligations.EdgeIsTheWholeStep : Prop :=
  (∀ (v : Inputs) (s : State), v.reset = false →
      exec (decode v) s =
        .next { s with q := [], dataOut := s.cfg.elemDefault, empty := true, full := false, size := 0 }) ∧
    ∀ (v : Inputs) (s : State), v.reset = true →
      let didRead := v.readRequest && !s.empty
      let didWrite := v.writeRequest && !s.full
      let q1 := if didRead then s.q.tail else s.q
      let q2 := if didWrite then q1 ++ [s.cfg.port v.dataIn] else q1
      (Consistent s → (didRead = true → s.q ≠ []) ∧ (didWrite = true → q1.length < s.cfg.depth)) ∧
      ((didRead = true → s.q ≠ []) → (didWrite = true → q1.length < s.cfg.depth) →
        exec (decode v) s =
          .next { s with
            q := q2
            dataOut := if didRead then s.q.headD s.dataOut else s.dataOut
            size := if didRead || didWrite then q2.length else s.size
            empty := if didRead || didWrite then q2.length == 0 else s.empty
            full := if didRead || didWrite then q2.length == s.cfg.depth else s.full })

/-- R75: a dropped WRITE or READ changes no state, and the dropped half of a READ_WRITE leaves the other half. -/
def Obligations.DroppedRequestsChangeNothing : Prop :=
  ∀ (d : Nat) (s : State),
    (s.full = true → exec (.write d) s = .next s) ∧ (s.empty = true → exec (.read d) s = .next s) ∧
    (s.full = true → exec (.readWrite d) s = exec (.read d) s) ∧
    (s.empty = true → exec (.readWrite d) s = exec (.write d) s) ∧
    (s.full = true → s.empty = true → exec (.readWrite d) s = .next s)

/-- R76: the only edges that change `data_out` are a reset edge and an edge with an admitted read. -/
def Obligations.DataOutIsRetained : Prop :=
  ∀ (v : Inputs) (s t : State), exec (decode v) s = .next t →
    (v.reset = false → t.outputs.dataOut = s.cfg.elemDefault.toNat) ∧
    (v.reset = true → v.readRequest = true → s.empty = false → s.contents.head? = some t.outputs.dataOut) ∧
    (v.reset = true → (v.readRequest = false ∨ s.empty = true) → t.outputs.dataOut = s.outputs.dataOut)

/-- R77: `data_in` of an edge never shows on `data_out` after that edge; written into an empty queue, it shows after the
next edge at the earliest. -/
def Obligations.NoSameEdgeFallThrough : Prop :=
  (∀ (i : Instr) (d d' : Nat) (s t t' : State), exec (withDataIn d i) s = .next t →
      exec (withDataIn d' i) s = .next t' → t.outputs.dataOut = t'.outputs.dataOut) ∧
    ∀ (s : State) (d e : Nat), Consistent s → s.q = [] →
      ∃ t u, exec (.readWrite d) s = .next t ∧ t.outputs.dataOut = s.outputs.dataOut ∧
        exec (.read e) t = .next u ∧ u.outputs.dataOut = (s.cfg.port d).toNat

/-- R78: with one cell, READ_WRITE fills the empty queue and drains the full one. -/
def Obligations.DepthOneAlternates : Prop :=
  ∀ (s : State) (d : Nat), Consistent s → s.cfg.depth = 1 →
    (s.empty = true → exec (.readWrite d) s =
      .next { s with q := [s.cfg.port d], size := 1, empty := false, full := true }) ∧
    (s.empty = false → ∃ x, s.q = [x] ∧ exec (.readWrite d) s =
      .next { s with q := [], dataOut := x, size := 0, empty := true, full := false })

/-- R53, with the canonical operations of R51: what is on `data_in` has no effect where no write is admitted. -/
def Obligations.UnusedDataInHasNoEffect : Prop :=
  (∀ (i : Instr) (d d' : Nat) (s : State), (usesDataIn i = false ∨ s.full = true) →
      exec (withDataIn d i) s = exec (withDataIn d' i) s) ∧
    (∀ (i : Instr) (s : State), exec (canonical i) s = exec i s) ∧
    ∀ i : Instr, usesDataIn i = false → (canonical i).dataIn = 0

/-! ## Flags and occupancy -/

/-- R79: the three flags are written together, from the store after the edge, when a read or a write was applied, and
otherwise left unchanged. -/
def Obligations.FlagsFollowMutation : Prop :=
  ∀ (v : Inputs) (s t : State), v.reset = true → exec (decode v) s = .next t →
    if readAdmitted v.readRequest s.empty || writeAdmitted v.writeRequest s.full then
      t.size = t.q.length ∧ t.empty = (t.q.length == 0) ∧ t.full = (t.q.length == t.cfg.depth)
    else t.size = s.size ∧ t.empty = s.empty ∧ t.full = s.full

/-- R83: what the two flags can show in a consistent state. -/
def Obligations.EmptyAndFullExclude : Prop :=
  ∀ s : State, Consistent s →
    ¬ (s.empty = true ∧ s.full = true) ∧
    ((s.empty = false ∧ s.full = false) ↔ (0 < s.q.length ∧ s.q.length < s.cfg.depth)) ∧
    (s.empty = false → s.full = false → 2 ≤ s.cfg.depth) ∧ (s.cfg.depth = 1 → s.empty = !s.full)

/-- R84: the next length of a consistent state without reset, in the range and at most one away. -/
def Obligations.NextLengthFormula : Prop :=
  ∀ (v : Inputs) (s : State), Consistent s → v.reset = true →
    ∃ t, exec (decode v) s = .next t ∧
      t.q.length + (if v.readRequest = true ∧ s.q.length ≠ 0 then 1 else 0) =
        s.q.length + (if v.writeRequest = true ∧ s.q.length ≠ s.cfg.depth then 1 else 0) ∧
      t.q.length ≤ s.q.length + 1 ∧ s.q.length ≤ t.q.length + 1 ∧ t.q.length ≤ s.cfg.depth

/-- R88: the occupancy table, `DEPTH ≥ 2`, and that READ_WRITE raises neither flag. -/
def Obligations.OccupancyTable : Prop :=
  ∀ (s : State) (w r : Bool) (d : Nat), Consistent s → 2 ≤ s.cfg.depth →
    (∃ t, exec (.reset w r d) s = .next t ∧ t.q.length = 0) ∧
    (∃ t, exec (.idle d) s = .next t ∧ t.q.length = s.q.length) ∧
    (∃ t, exec (.read d) s = .next t ∧ t.q.length = if s.q.length = 0 then 0 else s.q.length - 1) ∧
    (∃ t, exec (.write d) s = .next t ∧
      t.q.length = if s.q.length = s.cfg.depth then s.cfg.depth else s.q.length + 1) ∧
    ∃ t, exec (.readWrite d) s = .next t ∧
      t.q.length = (if s.q.length = 0 then 1 else if s.q.length = s.cfg.depth then s.cfg.depth - 1 else s.q.length) ∧
      (t.full = true → s.full = true) ∧ (t.empty = true → s.empty = true)

/-- R90: `SIZE_WIDTH` is `ceil(log2(DEPTH + 1))`, holds every occupancy and no narrower width holds `DEPTH`; the listed
values. -/
def Obligations.SizeWidthIsLeast : Prop :=
  (∀ c : Config, c.sizeWidth = Nat.clog 2 (c.depth + 1) ∧ c.depth < 2 ^ c.sizeWidth ∧ 2 ^ (c.sizeWidth - 1) ≤ c.depth) ∧
    (∀ s : State, Consistent s → s.sizePort.toNat = s.size) ∧
    ∀ c : Config, (c.depth, c.sizeWidth) ∈ [(1, 1), (2, 2), (3, 2), (4, 3), (7, 3), (8, 4), (15, 4), (16, 5)] ∨
      c.depth ∉ [1, 2, 3, 4, 7, 8, 15, 16]

/-! ## Invariants of every step -/

/-- R15, R17: no edge takes the store past `DEPTH`, whatever the flags (where they deny a full store, by log
entry 7). -/
def Obligations.StoreStaysWithinCapacity : Prop :=
  ∀ s t : State, WithinCapacity s → step s = .next t → WithinCapacity t

/-- R21 (10_state.md section 4), R86 (42_flags.md section 3): every edge takes a consistent state to a consistent state, and a reset edge any state to one. -/
def Obligations.ConsistencyIsPreserved : Prop :=
  (∀ s t : State, Consistent s → step s = .next t → Consistent t) ∧
    ∀ (s t : State) (v : Inputs) (vs : List Inputs), s.pending = v :: vs → v.reset = false → step s = .next t →
      Consistent t

/-- R118: from power-on every state either has an empty store or is consistent, and every edge keeps it so. -/
def Obligations.PowerOnStatesStaySound : Prop :=
  ∀ s t : State, FromPowerOn s → step s = .next t → FromPowerOn t

/-- R6, R47: all data the machine holds and shows has `DATA_WIDTH` bits, whatever number was put on `data_in`; of the
state's own elements and outputs this holds in every state, by their type. -/
def Obligations.ElementsKeepTheirWidth : Prop :=
  (∀ s : State, Fits s.cfg.dataWidth s.outputs.dataOut ∧ ∀ x ∈ s.contents, Fits s.cfg.dataWidth x) ∧
    (∀ (i : Instr) (s t : State), exec i s = .next t →
      t.cfg = s.cfg ∧ Fits s.cfg.dataWidth t.outputs.dataOut ∧ ∀ x ∈ t.contents, Fits s.cfg.dataWidth x) ∧
    ∀ s t : State, DataFits s → step s = .next t → DataFits t

/-- The invariants hold at `State.reset`, at the state after reset of every instance, and, as far as R117 lets them,
at every power-on state. -/
def Obligations.InvariantsHoldAtStart : Prop :=
  Consistent State.reset ∧ DataFits State.reset ∧
    (∀ (c : Config) (vs : List Inputs), Consistent (State.afterReset c vs)) ∧
    ∀ (c : Config) (p : PowerOn c.Element), FromPowerOn (State.powerOn c p) ∧ WithinCapacity (State.powerOn c p)

/-- R54: in a consistent state every input vector has a next state, and a request that cannot be served changes
nothing. -/
def Obligations.EveryInputIsServed : Prop :=
  (∀ (v : Inputs) (s : State), Consistent s → ∃ t, exec (decode v) s = .next t ∧ Consistent t) ∧
    ∀ (d : Nat) (s : State), Consistent s →
      (s.q.length = s.cfg.depth → exec (.write d) s = .next s) ∧ (s.q = [] → exec (.read d) s = .next s)

/-- From power-on the one stop of an operation is the admitted read on an empty store (the spec's decision D2, log
entry 6); in other states, which no run reaches, a write stops only on a store that is full although the flag denies it
(log entry 7). -/
def Obligations.OnlyUnderflowStops : Prop :=
  (∀ (s : State) (i : Instr), FromPowerOn s →
      (∀ r, exec i s ≠ .refused r) ∧
      ∀ e, exec i s = .fault e ↔
        e = .underflowBeforeReset ∧ s.q = [] ∧ s.empty = false ∧ ∃ d, i = .read d ∨ i = .readWrite d) ∧
    ∀ (s : State) (i : Instr), exec i s = .fault .pushPastCapacity →
      s.full = false ∧ s.cfg.depth ≤ s.q.length ∧ ∃ d, i = .write d ∨ i = .readWrite d

/-! ## Frames -/

/-- R16, R25: no operation changes the instance or the vectors to come. -/
def Obligations.OperationsKeepInstanceAndInputs : Prop :=
  ∀ (i : Instr) (s t : State), exec i s = .next t → t.cfg = s.cfg ∧ t.pending = s.pending

/-- Frame of READ: the elements behind the front move up one place, nothing else of the store changes; dropped, nothing
changes. -/
def Obligations.ReadFrame : Prop :=
  ∀ (d : Nat) (s t : State), exec (.read d) s = .next t →
    (s.empty = true → t = s) ∧
    (s.empty = false → s.contents[0]? = some t.outputs.dataOut ∧ ∀ k : Nat, t.contents[k]? = s.contents[k + 1]?) ∧
    t.cfg = s.cfg ∧ t.pending = s.pending

/-- Frame of WRITE: every element keeps its place, `data_out` is unchanged, the one new element is at the back; dropped,
nothing changes. -/
def Obligations.WriteFrame : Prop :=
  ∀ (d : Nat) (s t : State), exec (.write d) s = .next t →
    (s.full = true → t = s) ∧
    (∀ k : Nat, k < s.q.length → t.contents[k]? = s.contents[k]?) ∧
    (s.full = false → t.contents[s.q.length]? = some (s.cfg.port d).toNat ∧ t.q.length = s.q.length + 1) ∧
    t.outputs.dataOut = s.outputs.dataOut ∧ t.cfg = s.cfg ∧ t.pending = s.pending

/-- Frame of READ_WRITE: the elements that stay move up one place exactly when the read is admitted, the one new element
stands behind them exactly when the write is. -/
def Obligations.ReadWriteFrame : Prop :=
  ∀ (d : Nat) (s t : State), exec (.readWrite d) s = .next t →
    (s.empty = true →
      t.outputs.dataOut = s.outputs.dataOut ∧ ∀ k : Nat, k < s.q.length → t.contents[k]? = s.contents[k]?) ∧
    (s.empty = false →
      s.contents[0]? = some t.outputs.dataOut ∧ ∀ k : Nat, k + 1 < s.q.length → t.contents[k]? = s.contents[k + 1]?) ∧
    (s.full = true → t.q.length + (if s.empty = true then 0 else 1) = s.q.length) ∧
    (s.full = false →
      t.contents.getLast? = some (s.cfg.port d).toNat ∧ t.q.length + (if s.empty = true then 0 else 1) = s.q.length + 1) ∧
    t.cfg = s.cfg ∧ t.pending = s.pending

/-! ## Runs -/

/-- R10, R50: a step is one rising edge, which runs the operation that the next input vector decodes to, with that
vector taken from the list (log entries 1 and 11). -/
def Obligations.StepRunsDecodedOperation : Prop :=
  (∀ (s : State) (v : Inputs) (vs : List Inputs), s.pending = v :: vs →
      step s = exec (decode v) { s with pending := vs }) ∧
    ∀ (s : State) (nbits w : Nat) (i : Instr), decodeTableWord nbits w = some i →
      step (s.withFetchWord nbits w) = exec i { s with pending := s.pending.drop 1 }

/-- R12, in the model's form (log entry 2): without a further vector there is no further edge. -/
def Obligations.RunEndsWithItsVectors : Prop :=
  ∀ s : State, s.pending = [] → step s = .refused .noInputVector

/-- R12, R40: running a list of vectors is stepping once per vector. -/
def Obligations.RunIsOneStepPerEdge : Prop :=
  ∀ (vs ws : List Inputs) (s : State),
    Host.Core.run Sys2Proof.core vs.length ({ s with pending := vs ++ ws } : State) =
      runInputs vs { s with pending := ws }

/-- R43: after a reset edge, and as long as none follows, the n-th admitted read returns the value of the n-th admitted
write, the element the port carried; from any consistent state, what is in the store comes first. -/
def Obligations.FirstInFirstOut : Prop :=
  (∀ (s : State) (vs : List Inputs), Consistent s → ResetFree vs →
      ∃ t, runInputs vs s = .next t ∧ s.contents ++ enqueued vs s = dequeued vs s ++ t.contents) ∧
    ∀ (s : State) (v : Inputs) (vs : List Inputs), v.reset = false → ResetFree vs →
      ∃ s₀, exec (decode v) s = .next s₀ ∧
        ∀ n < (dequeued vs s₀).length, (dequeued vs s₀)[n]? = (enqueued vs s₀)[n]?

/-- R89: over a run without reset the queue ends full exactly when the writes admitted exceed the reads admitted by the
room there was. -/
def Obligations.FullNeedsExcessWrites : Prop :=
  ∀ (s : State) (vs : List Inputs), Consistent s → ResetFree vs →
    ∃ t, runInputs vs s = .next t ∧
      (t.full = true ↔ (enqueued vs s).length = (dequeued vs s).length + (s.cfg.depth - s.q.length)) ∧
      (t.empty = true ↔ (dequeued vs s).length = (enqueued vs s).length + s.q.length)

/-- R89, R124: on a full queue the write beside a read is lost, and a write at the next edge is served. -/
def Obligations.FullQueueRefillsInTwoEdges : Prop :=
  ∀ (s : State) (d e : Nat), Consistent s → s.full = true →
    ∃ t u, exec (.readWrite d) s = .next t ∧ t.contents = s.contents.tail ∧ exec (.write e) t = .next u ∧
      u.contents = s.contents.tail ++ [(s.cfg.port e).toNat] ∧ u.full = true

/-- R122, R54: a run whose first vector is RESET is served to its end from any state whatever, and ends consistent. -/
def Obligations.LaunchPremiseSuffices : Prop :=
  ∀ (s : State) (vs : List Inputs), StartsWithReset vs = true → ∃ t, runInputs vs s = .next t ∧ Consistent t

/-- R11, R117: after a first reset edge nothing the environment sees depends on the state before it. -/
def Obligations.PowerOnDrawIsForgotten : Prop :=
  ∀ (s s' : State) (vs : List Inputs), s.cfg = s'.cfg → s.pending = s'.pending → StartsWithReset vs = true →
    runInputs vs s = runInputs vs s' ∧ observe vs s = observe vs s' ∧ (observe vs s).length = vs.length

/-- R134: while the queue is neither empty nor full, READ_WRITE is served in full at every edge. -/
def Obligations.StreamingIsSustained : Prop :=
  ∀ (s : State) (ds : List Nat), Consistent s → 0 < s.q.length → s.q.length < s.cfg.depth →
    let vs := ds.map fun d => encode (.readWrite d)
    ∃ t, runInputs vs s = .next t ∧ t.q.length = s.q.length ∧ enqueued vs s = ds.map (fun d => (s.cfg.port d).toNat) ∧
      (dequeued vs s).length = ds.length

/-! ## Elements -/

/-- R6: the element type is a parameter of the block, and no operation inspects an element: renaming every element before
an edge, even into another type of elements, is renaming it after. -/
def Obligations.ElementsAreNeverInspected : Prop :=
  ∀ (α β : Type) (f : α → β) (p : Params α) (v : Sample α) (b : Block α),
    Block.step (renameParams f p) (v.map f) (b.rename f) = mapOutcome (Block.rename f) (Block.step p v b)

/-- R6: the edge over any type of elements, wherever `front` and `push_back` are defined, and that an operation of the
machine is that edge at the bit vectors of `DATA_WIDTH` bits, on what the data port carries (log entry 4). -/
def Obligations.EdgeOverAnyElementType : Prop :=
  (∀ (α : Type) (p : Params α) (v : Sample α) (b : Block α),
      let didRead := readAdmitted v.readRequest b.empty
      let didWrite := writeAdmitted v.writeRequest b.full
      let q1 := if didRead then b.q.tail else b.q
      let q2 := if didWrite then q1 ++ [v.dataIn] else q1
      (v.reset = false →
        Block.step p v b = .next { q := [], dataOut := p.elemDefault, empty := true, full := false, size := 0 }) ∧
      (v.reset = true → (didRead = true → b.q ≠ []) → (didWrite = true → q1.length < p.depth) →
        Block.step p v b =
          .next { q := q2
                  dataOut := if didRead then b.q.headD b.dataOut else b.dataOut
                  empty := if didRead || didWrite then q2.length == 0 else b.empty
                  full := if didRead || didWrite then q2.length == p.depth else b.full
                  size := if didRead || didWrite then q2.length else b.size })) ∧
    ∀ (i : Instr) (s : State),
      exec i s = mapOutcome s.withBlock (Block.step s.cfg.params ((encode i).map s.cfg.port) s.block)

/-- R52 and R33 on data that fits the data port: what an admitted write stores is the number on `data_in` itself, and a
READ of the queue that was empty before it shows exactly that number. -/
def Obligations.StoredDataIsExact : Prop :=
  ∀ (d e : Nat) (s : State), Fits s.cfg.dataWidth d → Consistent s → s.full = false →
    (∃ t, exec (.write d) s = .next t ∧ t.contents = s.contents ++ [d]) ∧
    (∃ t, exec (.readWrite d) s = .next t ∧ t.contents = s.contents.tail ++ [d]) ∧
    (s.q = [] → ∃ t u, exec (.write d) s = .next t ∧ exec (.read e) t = .next u ∧ u.outputs.dataOut = d)

/-! ## Encoding -/

/-- R49, R50: decoding the command word of an operation gives the operation back, with every operand, at every width. -/
def Obligations.DecodeOfEncodeIsIdentity : Prop :=
  ∀ (width : Nat) (i : Instr), i.WellFormed width → decodeCmd width (encodeCmd width i) = .ok i

/-- R54: every word of `3 + DATA_WIDTH` bits is the command word of exactly the operation it decodes to, and longer
numbers are rejected. -/
def Obligations.EveryCommandWordHasOneOperation : Prop :=
  ∀ width w : Nat,
    (w < 2 ^ (3 + width) → ∃ i, decodeCmd width w = .ok i ∧ i.WellFormed width ∧ encodeCmd width i = w) ∧
    (2 ^ (3 + width) ≤ w → decodeCmd width w = .error .tooWide)

/-- R49: the fields of the command word stand where the rule puts them. -/
def Obligations.CommandWordFields : Prop :=
  ∀ v : Inputs, v.WellFormed 8 →
    encodeCmd 8 (decode v) < 2 ^ 11 ∧ (encodeCmd 8 (decode v)).testBit 10 = v.reset ∧
    (encodeCmd 8 (decode v)).testBit 9 = v.writeRequest ∧ (encodeCmd 8 (decode v)).testBit 8 = v.readRequest ∧
    encodeCmd 8 (decode v) % 256 = v.dataIn

/-- R51: at a reset edge the other inputs are don't-care; every word with bit 10 clear is RESET and does what the
canonical RESET, the word 0, does; and the order in which decode looks at the inputs. -/
def Obligations.ResetWordsAreDontCare : Prop :=
  (∀ n < 0x400, ∃ w r d, decodeCmd 8 n = .ok (.reset w r d) ∧
      ∀ s : State, exec (.reset w r d) s = exec (.reset false false 0) s) ∧
    encodeCmd 8 (.reset false false 0) = 0x000 ∧
    ∀ v : Inputs, decode v =
      if v.reset = false then .reset v.writeRequest v.readRequest v.dataIn
      else match v.writeRequest, v.readRequest with
        | false, false => .idle v.dataIn
        | false, true => .read v.dataIn
        | true, false => .write v.dataIn
        | true, true => .readWrite v.dataIn

/-- R50: the five rows cover all eight control words, no two overlap, and an input vector decodes to the operation of
its row (names and bit order are the spec's own choice, D8 and D9). -/
def Obligations.TableRowsPartitionControlWords : Prop :=
  (∀ ctl < 8, (operationTable.filter fun row => row.covers ctl).length = 1) ∧
    ∀ v : Inputs, (decode v).tableRow ∈ operationTable ∧ (decode v).tableRow.covers (ctlWord v) = true ∧
      usesDataIn (decode v) = (v.reset && v.writeRequest)

/-- spec/95_test_vectors.md section 3.5: the command words it lists. -/
def Obligations.ListedWordsDecode : Prop :=
  decodeCmd 8 0x000 = .ok (.reset false false 0) ∧ decodeCmd 8 0x3EE = .ok (.reset true true 0xEE) ∧
    decodeCmd 8 0x400 = .ok (.idle 0) ∧ decodeCmd 8 0x4AB = .ok (.idle 0xAB) ∧ decodeCmd 8 0x500 = .ok (.read 0) ∧
    decodeCmd 8 0x5FF = .ok (.read 0xFF) ∧ decodeCmd 8 0x63A = .ok (.write 0x3A) ∧
    decodeCmd 8 0x600 = .ok (.write 0) ∧ decodeCmd 8 0x799 = .ok (.readWrite 0x99)

/-- R58: the pseudo-operations, each an exact synonym; `RESET*n` ends where one RESET ends. -/
def Obligations.PseudoOperationsAreSynonyms : Prop :=
  Line.nop.expand = Line.idle.expand ∧ (∀ v, (Line.push v).expand = (Line.write v).expand) ∧
    Line.pop.expand = Line.read.expand ∧
    (∀ (op : Line) (n : Nat), (Line.times op n).expand = (List.replicate n op.expand).flatten) ∧
    ∀ (n : Nat) (s : State), 1 ≤ n →
      runInputs ((Line.times .reset n).expand.map encode) s = runInputs (Line.reset.expand.map encode) s

/-! ## The wires over time -/

/-- R46, R64, R129, R136: what the inputs do between two rising edges of `clk` is never seen, a falling edge among it
(wires over time are log entry 10's). -/
def Obligations.BetweenEdgesNothingIsSeen : Prop :=
  (∀ (a p : Pins) (mid rest : List Pins), a.clk ≠ .undriven → (∀ m ∈ mid, m.clk = .low) → p.clk = .low →
      sampleWave a (mid ++ p :: rest) = sampleWave p rest) ∧
    ∀ (a p : Pins) (mid rest : List Pins), a.clk = .high → (∀ m ∈ mid, m.clk = .high) → p.clk = .high →
      sampleWave a (mid ++ p :: rest) = sampleWave p rest

/-- R46: a rising edge samples what the inputs have settled to before it; inputs that change at its instant, and wires
that are not driven, are refused (D3, D14, log entry 10). -/
def Obligations.RisingEdgeSamplesSettledInputs : Prop :=
  ∀ (p n : Pins) (rest : List Pins),
    (p.clk = .low → n.clk = .high → ∀ v, p.sample = some v → n.sample = some v →
      sampleWave p (n :: rest) = mapOutcome (fun vs => v :: vs) (sampleWave n rest)) ∧
    (p.clk = .low → n.clk = .high → ∀ v, p.sample = some v → n.sample ≠ some v →
      sampleWave p (n :: rest) = .refused .inputChangedAtEdge) ∧
    (p.clk = .low → n.clk = .high → p.sample = none → sampleWave p (n :: rest) = .refused .undrivenInput) ∧
    ((p.clk = .undriven ∨ n.clk = .undriven) → sampleWave p (n :: rest) = .refused .undrivenInput)

/-! ## The circular buffer and the reduced machine -/

/-- R99: the concrete step over a circular buffer of any type of elements keeps the concrete invariant and is the
abstract step on the sequence it stands for; so it is exec on every state whose block it stands for. -/
def Obligations.CircularBufferRefinesStore : Prop :=
  (∀ (α : Type) (p : Params α) (v : Sample α) (c : Circ α), c.Inv p →
      Block.step p v (c.toBlock p) = mapOutcome (Circ.toBlock p) (c.step p v) ∧
      ∀ c', c.step p v = .next c' → c'.Inv p) ∧
    ∀ (i : Instr) (s : State) (c : Circ s.cfg.Element), c.Inv s.cfg.params → c.toBlock s.cfg.params = s.block →
      exec i s = mapOutcome (fun c' => s.withBlock (Circ.toBlock s.cfg.params c'))
        (c.step s.cfg.params ((encode i).map s.cfg.port))

/-- R94: RESET sets the indices and the count to 0 and leaves the cells, after which the concrete invariant of R93 holds.
The clause about power-on is the model's choice, log entry 13 (DEDUCED): that the indices and the count are 0 there, so
that the invariant holds before the first reset edge too, where the spec gives it only from that edge on. -/
def Obligations.CircularResetLeavesCells : Prop :=
  (∀ (α : Type) (p : Params α) (v : Sample α) (c : Circ α), v.reset = false →
      c.step p v = .next { mem := c.mem, head := 0, tail := 0, count := 0, dataOut := p.elemDefault, empty := true,
                           full := false, size := 0 }) ∧
    (∀ (α : Type) (p : Params α) (c : Circ α), c.mem.length = p.depth → (c.clear p).Inv p) ∧
    ∀ (α : Type) (p : Params α) (cells : List α) (w : PowerOn α), cells.length = p.depth →
      (Circ.powerOn cells w).Inv p ∧ (Circ.powerOn cells w).toBlock p = Block.powerOn w

/-- R91, R98: the pointer width is `ceil(log2(DEPTH))`, the least that holds every index and 0 exactly when `DEPTH = 1`;
under the concrete invariant the pointers in that width carry `head` and `tail`, both 0 when `DEPTH = 1`. -/
def Obligations.PointerWidthIsLeast : Prop :=
  ∀ (α : Type) (p : Params α),
    Circ.pointerWidth p = Nat.clog 2 p.depth ∧
    (∀ k : Nat, p.depth ≤ 2 ^ k ↔ Circ.pointerWidth p ≤ k) ∧
    (Circ.pointerWidth p = 0 ↔ p.depth = 1) ∧
    ∀ c : Circ α, c.Inv p →
      (c.headBits p).toNat = c.head ∧ (c.tailBits p).toNat = c.tail ∧ (p.depth = 1 → c.head = 0 ∧ c.tail = 0)

/-- R95: an index advances by one and wraps from `DEPTH - 1` to 0, so it stays an index; when `DEPTH` is a power of two
this is an ordinary add in the pointer width, which wraps by itself. -/
def Obligations.PointersAdvanceModuloDepth : Prop :=
  ∀ (α : Type) (p : Params α),
    (∀ a < p.depth, Circ.advance p a < p.depth ∧
      Circ.advance p a = if a = p.depth - 1 then 0 else a + 1) ∧
    ∀ k : Nat, p.depth = 2 ^ k →
      ∀ a : Nat, Circ.pointerBits p (Circ.advance p a) = Circ.pointerBits p a + 1

/-- R96: the read and the write of one edge never use the same cell. -/
def Obligations.ReadAndWriteCellsDiffer : Prop :=
  ∀ (α : Type) (p : Params α) (c : Circ α), c.Inv p →
    (c.head = c.tail ↔ c.count = 0 ∨ c.count = p.depth) ∧
    ∀ v : α, c.empty = (c.count == 0) → c.full = (c.count == p.depth) →
      readAdmitted true c.empty = true → writeAdmitted true c.full = true →
      c.head ≠ c.tail ∧ (c.writeCell c.tail v).readCell p c.head = c.readCell p c.head

/-- R97: a write never overwrites a valid cell. -/
def Obligations.WriteKeepsValidCells : Prop :=
  ∀ (α : Type) (p : Params α) (c : Circ α) (v : α), c.Inv p → c.count < p.depth →
    (∀ i < c.count, (c.head + i) % p.depth ≠ c.tail) ∧ (c.writeCell c.tail v).elements p = c.elements p

/-- R87 (42_flags.md section 3): the machine that keeps only the store and `data_out`, and computes the flags, shows the same outputs. -/
def Obligations.ComputedFlagsAreEnough : Prop :=
  ∀ (s : State) (i : Instr), Consistent s →
    s.block.outputs = s.block.view.outputs s.cfg.params ∧
    ∃ b, exec i s = .next (s.withBlock b) ∧ Consistent (s.withBlock b) ∧
      b.view = s.block.view.step s.cfg.params ((encode i).map s.cfg.port) ∧
      b.outputs = (s.block.view.step s.cfg.params ((encode i).map s.cfg.port)).outputs s.cfg.params
end

