-- ==== Sys2Proof/Laws/State.lean ====
section
/-! SUPPORT. One lemma per field for each named update of a block and of the state. -/

namespace Sys2Proof

@[simp] theorem Config.params_depth (c : Config) : c.params.depth = c.depth := rfl
@[simp] theorem Config.params_elemDefault (c : Config) : c.params.elemDefault = c.elemDefault := rfl

section
variable {α β : Type} (f : α → β) (v : Sample α)

@[simp] theorem Sample.map_reset : (v.map f).reset = v.reset := rfl
@[simp] theorem Sample.map_writeRequest : (v.map f).writeRequest = v.writeRequest := rfl
@[simp] theorem Sample.map_readRequest : (v.map f).readRequest = v.readRequest := rfl
@[simp] theorem Sample.map_dataIn : (v.map f).dataIn = f v.dataIn := rfl

end

/-- What the data port carries, as a number (log entry 4). -/
@[simp] theorem Config.toNat_port (c : Config) (d : Nat) : (c.port d).toNat = d % 2 ^ c.dataWidth := by
  simp [Config.port]

/-- The data port carries all of a number that fits it (R52). -/
theorem Config.toNat_port_of_fits {c : Config} {d : Nat} (h : Fits c.dataWidth d) : (c.port d).toNat = d := by
  simp [Nat.mod_eq_of_lt h]

end Sys2Proof

namespace Sys2Proof.Machine

section
variable {α : Type} (p : Params α) (b : Block α)

@[simp] theorem Block.clear_q : (b.clear p).q = [] := rfl
@[simp] theorem Block.clear_dataOut : (b.clear p).dataOut = p.elemDefault := rfl
@[simp] theorem Block.clear_empty : (b.clear p).empty = true := rfl
@[simp] theorem Block.clear_full : (b.clear p).full = false := rfl
@[simp] theorem Block.clear_size : (b.clear p).size = 0 := rfl

@[simp] theorem Block.latch_q (x : α) (rest : List α) : (b.latch x rest).q = rest := rfl
@[simp] theorem Block.latch_dataOut (x : α) (rest : List α) : (b.latch x rest).dataOut = x := rfl
@[simp] theorem Block.latch_empty (x : α) (rest : List α) : (b.latch x rest).empty = b.empty := rfl
@[simp] theorem Block.latch_full (x : α) (rest : List α) : (b.latch x rest).full = b.full := rfl
@[simp] theorem Block.latch_size (x : α) (rest : List α) : (b.latch x rest).size = b.size := rfl

@[simp] theorem Block.append_q (v : α) : (b.append v).q = b.q ++ [v] := rfl
@[simp] theorem Block.append_dataOut (v : α) : (b.append v).dataOut = b.dataOut := rfl
@[simp] theorem Block.append_empty (v : α) : (b.append v).empty = b.empty := rfl
@[simp] theorem Block.append_full (v : α) : (b.append v).full = b.full := rfl
@[simp] theorem Block.append_size (v : α) : (b.append v).size = b.size := rfl

@[simp] theorem Block.recomputeFlags_q : (b.recomputeFlags p).q = b.q := rfl
@[simp] theorem Block.recomputeFlags_dataOut : (b.recomputeFlags p).dataOut = b.dataOut := rfl
@[simp] theorem Block.recomputeFlags_empty : (b.recomputeFlags p).empty = (b.q.length == 0) := rfl
@[simp] theorem Block.recomputeFlags_full : (b.recomputeFlags p).full = (b.q.length == p.depth) := rfl
@[simp] theorem Block.recomputeFlags_size : (b.recomputeFlags p).size = b.q.length := rfl

@[simp] theorem Block.outputs_dataOut : (b.outputs).dataOut = b.dataOut := rfl
@[simp] theorem Block.outputs_empty : (b.outputs).empty = b.empty := rfl
@[simp] theorem Block.outputs_full : (b.outputs).full = b.full := rfl
@[simp] theorem Block.outputs_size : (b.outputs).size = b.size := rfl

@[simp] theorem Block.view_q : b.view.q = b.q := rfl
@[simp] theorem Block.view_dataOut : b.view.dataOut = b.dataOut := rfl

@[simp] theorem Block.powerOn_q (w : PowerOn α) : (Block.powerOn w).q = [] := rfl
@[simp] theorem Block.powerOn_dataOut (w : PowerOn α) : (Block.powerOn w).dataOut = w.dataOut := rfl
@[simp] theorem Block.powerOn_empty (w : PowerOn α) : (Block.powerOn w).empty = w.empty := rfl
@[simp] theorem Block.powerOn_full (w : PowerOn α) : (Block.powerOn w).full = w.full := rfl
@[simp] theorem Block.powerOn_size (w : PowerOn α) : (Block.powerOn w).size = w.size := rfl

end

section
variable (s : State)

@[simp] theorem State.block_q : s.block.q = s.q := rfl
@[simp] theorem State.block_dataOut : s.block.dataOut = s.dataOut := rfl
@[simp] theorem State.block_empty : s.block.empty = s.empty := rfl
@[simp] theorem State.block_full : s.block.full = s.full := rfl
@[simp] theorem State.block_size : s.block.size = s.size := rfl

variable (b : Block s.cfg.Element)

@[simp] theorem State.withBlock_cfg : (s.withBlock b).cfg = s.cfg := rfl
@[simp] theorem State.withBlock_q : (s.withBlock b).q = b.q := rfl
@[simp] theorem State.withBlock_dataOut : (s.withBlock b).dataOut = b.dataOut := rfl
@[simp] theorem State.withBlock_empty : (s.withBlock b).empty = b.empty := rfl
@[simp] theorem State.withBlock_full : (s.withBlock b).full = b.full := rfl
@[simp] theorem State.withBlock_size : (s.withBlock b).size = b.size := rfl
@[simp] theorem State.withBlock_pending : (s.withBlock b).pending = s.pending := rfl

/-- Putting a block in and reading it back. -/
@[simp] theorem State.block_withBlock : (s.withBlock b).block = b := rfl

/-- Putting a state's own block in changes nothing. -/
@[simp] theorem State.withBlock_block : s.withBlock s.block = s := rfl

/-- Of two blocks put in one after the other the second stays. -/
@[simp] theorem State.withBlock_withBlock (b' : Block s.cfg.Element) :
    (s.withBlock b).withBlock b' = s.withBlock b' := rfl

/-- Two blocks put into one state give two states. -/
theorem State.withBlock_injective (b' : Block s.cfg.Element) : s.withBlock b = s.withBlock b' ↔ b = b' := by
  constructor
  · intro h
    cases b
    cases b'
    simpa [State.withBlock] using h
  · rintro rfl
    rfl

@[simp] theorem State.outputs_dataOut : s.outputs.dataOut = s.dataOut.toNat := rfl
@[simp] theorem State.outputs_full : s.outputs.full = s.full := rfl
@[simp] theorem State.outputs_empty : s.outputs.empty = s.empty := rfl
@[simp] theorem State.outputs_size : s.outputs.size = s.size := rfl
@[simp] theorem State.length_contents : s.contents.length = s.q.length := by simp [State.contents]

end

section
variable (c : Config) (vs : List Inputs) (w : PowerOn c.Element)

@[simp] theorem State.afterReset_cfg : (State.afterReset c vs).cfg = c := rfl
@[simp] theorem State.afterReset_q : (State.afterReset c vs).q = [] := rfl
@[simp] theorem State.afterReset_dataOut : (State.afterReset c vs).dataOut = c.elemDefault := rfl
@[simp] theorem State.afterReset_empty : (State.afterReset c vs).empty = true := rfl
@[simp] theorem State.afterReset_full : (State.afterReset c vs).full = false := rfl
@[simp] theorem State.afterReset_size : (State.afterReset c vs).size = 0 := rfl
@[simp] theorem State.afterReset_pending : (State.afterReset c vs).pending = vs := rfl
@[simp] theorem State.powerOn_cfg : (State.powerOn c w).cfg = c := rfl
@[simp] theorem State.powerOn_q : (State.powerOn c w).q = [] := rfl
@[simp] theorem State.powerOn_dataOut : (State.powerOn c w).dataOut = w.dataOut := rfl
@[simp] theorem State.powerOn_empty : (State.powerOn c w).empty = w.empty := rfl
@[simp] theorem State.powerOn_full : (State.powerOn c w).full = w.full := rfl
@[simp] theorem State.powerOn_size : (State.powerOn c w).size = w.size := rfl
@[simp] theorem State.powerOn_pending : (State.powerOn c w).pending = [] := rfl

end

/-- A reset edge leaves the state after reset of the same instance (R61, R120). -/
theorem State.withBlock_clear (s : State) :
    s.withBlock (s.block.clear s.cfg.params) = State.afterReset s.cfg s.pending := rfl

end Sys2Proof.Machine
end

