-- ==== Sys2Proof/Laws/Ops.lean ====
section
/-! SUPPORT. What each shared operation can do, said once: sequencing, the read and the write effect, and the edge
without reset. -/

namespace Sys2Proof.Machine

/-! ## Sequencing -/

section
variable {σ τ φ ρ : Type}

@[simp] theorem andThen_next (s : σ) (f : σ → Host.Outcome τ φ ρ) : andThen (.next s) f = f s := rfl

@[simp] theorem andThen_fault (e : φ) (f : σ → Host.Outcome τ φ ρ) : andThen (.fault e) f = .fault e := rfl

@[simp] theorem andThen_refused (e : ρ) (f : σ → Host.Outcome τ φ ρ) : andThen (.refused e) f = .refused e := rfl

@[simp] theorem mapOutcome_next (f : σ → τ) (s : σ) : mapOutcome (φ := φ) (ρ := ρ) f (.next s) = .next (f s) := rfl

@[simp] theorem mapOutcome_fault (f : σ → τ) (e : φ) : mapOutcome (ρ := ρ) f (.fault e) = .fault e := rfl

@[simp] theorem mapOutcome_refused (f : σ → τ) (e : ρ) : mapOutcome (φ := φ) f (.refused e) = .refused e := rfl

theorem andThen_eq_next_iff {o : Host.Outcome σ φ ρ} {f : σ → Host.Outcome τ φ ρ} {t : τ} :
    andThen o f = .next t ↔ ∃ s, o = .next s ∧ f s = .next t := by
  cases o <;> simp

theorem andThen_eq_fault_iff {o : Host.Outcome σ φ ρ} {f : σ → Host.Outcome τ φ ρ} {e : φ} :
    andThen o f = .fault e ↔ o = .fault e ∨ ∃ s, o = .next s ∧ f s = .fault e := by
  cases o <;> simp

theorem andThen_eq_refused_iff {o : Host.Outcome σ φ ρ} {f : σ → Host.Outcome τ φ ρ} {e : ρ} :
    andThen o f = .refused e ↔ o = .refused e ∨ ∃ s, o = .next s ∧ f s = .refused e := by
  cases o <;> simp

end

/-! ## The edge of a block without reset -/

section
variable {α : Type} {p : Params α} {b b' : Block α} {rd wr : Bool} {v : α}

/-- Neither request admitted: nothing changes (R75, R81). -/
theorem normalEdge_neither (hr : readAdmitted rd b.empty = false) (hw : writeAdmitted wr b.full = false) :
    normalEdge p rd wr v b = .next b := by
  simp [normalEdge, hr, hw, readEffect, writeEffect, updateFlags]

/-- Only the read admitted, on a store with a front (R68, R79). -/
theorem normalEdge_read {x : α} {rest : List α} (hr : readAdmitted rd b.empty = true)
    (hw : writeAdmitted wr b.full = false) (hq : b.q = x :: rest) :
    normalEdge p rd wr v b = .next ((b.latch x rest).recomputeFlags p) := by
  simp [normalEdge, hr, hw, readEffect, writeEffect, updateFlags, popFront, hq]

/-- Only the write admitted, with room in the store (R69, R79). -/
theorem normalEdge_write (hr : readAdmitted rd b.empty = false) (hw : writeAdmitted wr b.full = true)
    (hq : b.q.length < p.depth) : normalEdge p rd wr v b = .next ((b.append v).recomputeFlags p) := by
  simp [normalEdge, hr, hw, readEffect, writeEffect, updateFlags, pushBack, writeOperand, hq]

/-- Both admitted, with a front and with room after the read (R68, R69, R79). -/
theorem normalEdge_both {x : α} {rest : List α} (hr : readAdmitted rd b.empty = true)
    (hw : writeAdmitted wr b.full = true) (hq : b.q = x :: rest) (hl : rest.length < p.depth) :
    normalEdge p rd wr v b = .next (((b.latch x rest).append v).recomputeFlags p) := by
  simp [normalEdge, hr, hw, readEffect, writeEffect, updateFlags, popFront, pushBack, writeOperand, hq, hl]

/-- A read admitted on a store with no element faults (R118). -/
theorem normalEdge_underflow (hr : readAdmitted rd b.empty = true) (hq : b.q = []) :
    normalEdge p rd wr v b = .fault .underflowBeforeReset := by
  simp [normalEdge, hr, readEffect, popFront, hq]

/-- Everything an edge without reset can answer with a next block. -/
theorem normalEdge_cases (h : normalEdge p rd wr v b = .next b') :
    (readAdmitted rd b.empty = false ∧ writeAdmitted wr b.full = false ∧ b' = b) ∨
    (readAdmitted rd b.empty = true ∧ writeAdmitted wr b.full = false ∧
      ∃ x rest, b.q = x :: rest ∧ b' = (b.latch x rest).recomputeFlags p) ∨
    (readAdmitted rd b.empty = false ∧ writeAdmitted wr b.full = true ∧ b.q.length < p.depth ∧
      b' = (b.append v).recomputeFlags p) ∨
    (readAdmitted rd b.empty = true ∧ writeAdmitted wr b.full = true ∧
      ∃ x rest, b.q = x :: rest ∧ rest.length < p.depth ∧ b' = ((b.latch x rest).append v).recomputeFlags p) := by
  cases hr : readAdmitted rd b.empty <;> cases hw : writeAdmitted wr b.full
  · simp_all [normalEdge_neither hr hw]
  · by_cases hl : b.q.length < p.depth
    · simp_all [normalEdge_write hr hw hl]
    · simp [normalEdge, hr, hw, readEffect, writeEffect, pushBack, hl] at h
  · cases hq : b.q with
    | nil => simp [normalEdge_underflow hr hq] at h
    | cons x rest => simp_all [normalEdge_read hr hw hq]
  · cases hq : b.q with
    | nil => simp [normalEdge_underflow hr hq] at h
    | cons x rest =>
      by_cases hl : rest.length < p.depth
      · simp_all [normalEdge_both hr hw hq hl]
      · simp [normalEdge, hr, hw, readEffect, writeEffect, popFront, pushBack, hq, hl] at h

/-- Everything an edge without reset can answer with a fault. -/
theorem normalEdge_fault_cases {e : Fault} (h : normalEdge p rd wr v b = .fault e) :
    (e = .underflowBeforeReset ∧ readAdmitted rd b.empty = true ∧ b.q = []) ∨
    (e = .pushPastCapacity ∧ writeAdmitted wr b.full = true ∧
      p.depth ≤ (if readAdmitted rd b.empty = true then b.q.tail.length else b.q.length)) := by
  cases hr : readAdmitted rd b.empty <;> cases hw : writeAdmitted wr b.full
  · simp [normalEdge_neither hr hw] at h
  · by_cases hl : b.q.length < p.depth
    · simp [normalEdge_write hr hw hl] at h
    · simp [normalEdge, hr, hw, readEffect, writeEffect, pushBack, hl] at h
      simp_all
  · cases hq : b.q with
    | nil => simp_all [normalEdge_underflow hr hq]
    | cons x rest => simp [normalEdge_read hr hw hq] at h
  · cases hq : b.q with
    | nil => simp_all [normalEdge_underflow hr hq]
    | cons x rest =>
      by_cases hl : rest.length < p.depth
      · simp [normalEdge_both hr hw hq hl] at h
      · simp [normalEdge, hr, hw, readEffect, writeEffect, popFront, pushBack, hq, hl] at h
        simp_all

theorem readEffect_ne_refused {d : Bool} {e : Refusal} : readEffect d b ≠ .refused e := by
  unfold readEffect popFront
  split
  · split <;> simp
  · simp

theorem writeEffect_ne_refused {d : Bool} {e : Refusal} : writeEffect p d v b ≠ .refused e := by
  unfold writeEffect pushBack
  split
  · split <;> simp
  · simp

/-- No edge is refused. -/
theorem normalEdge_ne_refused {e : Refusal} : normalEdge p rd wr v b ≠ .refused e := by
  intro h
  obtain h | ⟨b₁, -, h⟩ := andThen_eq_refused_iff.mp h
  · exact readEffect_ne_refused h
  · obtain h | ⟨b₂, -, h⟩ := andThen_eq_refused_iff.mp h
    · exact writeEffect_ne_refused h
    · cases h

/-- A reset edge clears the block (R61). -/
theorem Block.step_of_reset {w : Sample α} (h : w.reset = false) : Block.step p w b = .next (b.clear p) := by
  simp [Block.step, h]

/-- Without reset an edge is the shared edge on the sampled requests and `data_in` (R60). -/
theorem Block.step_of_normal {w : Sample α} (h : w.reset = true) :
    Block.step p w b = normalEdge p w.readRequest w.writeRequest w.dataIn b := by
  simp [Block.step, h]

end

/-! ## An operation on the block of a state -/

section
variable {s t : State} {f : Block s.cfg.Element → Host.Outcome (Block s.cfg.Element) Fault Refusal}

theorem onBlock_of_next {b : Block s.cfg.Element} (h : f s.block = .next b) : s.onBlock f = .next (s.withBlock b) := by
  simp [State.onBlock, h]

theorem onBlock_of_fault {e : Fault} (h : f s.block = .fault e) : s.onBlock f = .fault e := by
  simp [State.onBlock, h]

/-- A next state is the same instance with the same vectors to come, with the next block in it. -/
theorem onBlock_eq_next_iff : s.onBlock f = .next t ↔ ∃ b, f s.block = .next b ∧ t = s.withBlock b := by
  cases h : f s.block <;> simp [State.onBlock, h, eq_comm]

theorem onBlock_eq_fault_iff {e : Fault} : s.onBlock f = .fault e ↔ f s.block = .fault e := by
  cases h : f s.block <;> simp [State.onBlock, h]

theorem onBlock_eq_refused_iff {e : Refusal} : s.onBlock f = .refused e ↔ f s.block = .refused e := by
  cases h : f s.block <;> simp [State.onBlock, h]

end

end Sys2Proof.Machine
end

