-- ==== Sys2Proof/Laws/Exec.lean ====
section
/-! SUPPORT. Decoding and running an operation, in terms of the input vector: RESET clears, everything else is the
shared edge without reset (spec/30_encoding.md R50, R60). -/

namespace Sys2Proof.Machine

@[simp] theorem decode_encode (i : Instr) : decode (encode i) = i := by cases i <;> simp [decode, encode]

@[simp] theorem encode_decode (v : Inputs) : encode (decode v) = v := by
  obtain ⟨r, w, rd, d⟩ := v
  cases r <;> cases w <;> cases rd <;> rfl

@[simp] theorem decode_dataIn (v : Inputs) : (decode v).dataIn = v.dataIn := by
  obtain ⟨r, w, rd, d⟩ := v
  cases r <;> cases w <;> cases rd <;> rfl

/-! ## Each operation as its shared edge -/

section
variable (d : Nat) (s : State)

theorem exec_reset (w r : Bool) : exec (.reset w r d) s = .next (s.withBlock (s.block.clear s.cfg.params)) := rfl

theorem exec_idle : exec (.idle d) s = .next s := rfl

theorem exec_read : exec (.read d) s = s.onBlock (normalEdge s.cfg.params true false (s.cfg.port d)) := rfl

theorem exec_write : exec (.write d) s = s.onBlock (normalEdge s.cfg.params false true (s.cfg.port d)) := rfl

theorem exec_readWrite : exec (.readWrite d) s = s.onBlock (normalEdge s.cfg.params true true (s.cfg.port d)) := rfl

end

/-- The operation of an input vector, done: the edge of the block on what the ports carry (R60). -/
theorem exec_decode (v : Inputs) (s : State) :
    exec (decode v) s = s.onBlock (Block.step s.cfg.params (v.map s.cfg.port)) := by
  obtain ⟨r, w, rd, d⟩ := v
  cases r <;> cases w <;> cases rd <;> rfl

/-- The operation of an input vector, done, with reset asserted (R61). -/
theorem exec_decode_of_reset {v : Inputs} {s : State} (hv : v.reset = false) :
    exec (decode v) s = .next (State.afterReset s.cfg s.pending) := by
  rw [exec_decode, onBlock_of_next (Block.step_of_reset hv)]
  rfl

/-- The operation of an input vector, done, without reset (R65 to R69). -/
theorem exec_decode_of_normal {v : Inputs} {s : State} (hv : v.reset = true) :
    exec (decode v) s =
      s.onBlock (normalEdge s.cfg.params v.readRequest v.writeRequest (s.cfg.port v.dataIn)) := by
  rw [exec_decode]
  exact congrArg (mapOutcome s.withBlock) (Block.step_of_normal hv)

/-- Everything an operation can answer with a next state. -/
theorem exec_decode_cases {v : Inputs} {s t : State} (h : exec (decode v) s = .next t) :
    (v.reset = false ∧ t = State.afterReset s.cfg s.pending) ∨
    (v.reset = true ∧ ∃ b, t = s.withBlock b ∧
      normalEdge s.cfg.params v.readRequest v.writeRequest (s.cfg.port v.dataIn) s.block = .next b) := by
  cases hv : v.reset
  · rw [exec_decode_of_reset hv] at h
    cases h
    exact .inl ⟨rfl, rfl⟩
  · rw [exec_decode_of_normal hv, onBlock_eq_next_iff] at h
    obtain ⟨b, hb, rfl⟩ := h
    exact .inr ⟨rfl, b, rfl, hb⟩

/-- No operation is refused, in any state. -/
theorem exec_ne_refused (i : Instr) (s : State) (e : Refusal) : exec i s ≠ .refused e := by
  rw [← decode_encode i, exec_decode, Ne, onBlock_eq_refused_iff]
  unfold Block.step
  split
  · simp
  · exact normalEdge_ne_refused

/-- A table word that stands for an input vector puts that vector in the place of the next one (log entry 11). -/
theorem State.withFetchWord_of_some {s : State} {nbits w : Nat} {v : Inputs} (h : tableInputs nbits w = some v) :
    s.withFetchWord nbits w = { s with pending := v :: s.pending.drop 1 } := by
  unfold State.withFetchWord
  rw [h]

/-- Running a list of vectors, one edge at a time. -/
theorem runInputs_append (vs ws : List Inputs) (s : State) :
    runInputs (vs ++ ws) s = andThen (runInputs vs s) (runInputs ws) := by
  induction vs generalizing s with
  | nil => rfl
  | cons v vs ih =>
    simp only [List.cons_append, runInputs]
    cases exec (decode v) s with
    | next t => simpa using ih t
    | fault e => rfl
    | refused e => rfl

end Sys2Proof.Machine
end

