-- ==== Sys2Proof/Laws/Circular.lean ====
section
/-! SUPPORT. Small lemmas of the circular buffer's state and its abstraction (spec/43_circular_buffer.md R92). -/

namespace Sys2Proof.Machine

variable {α : Type} (p : Params α) (c : Circ α)

/-- `len(abs) = count` (R92). -/
@[simp] theorem Circ.length_elements : (c.elements p).length = c.count := by simp [Circ.elements]

@[simp] theorem Circ.toBlock_q : (c.toBlock p).q = c.elements p := rfl
@[simp] theorem Circ.toBlock_dataOut : (c.toBlock p).dataOut = c.dataOut := rfl
@[simp] theorem Circ.toBlock_empty : (c.toBlock p).empty = c.empty := rfl
@[simp] theorem Circ.toBlock_full : (c.toBlock p).full = c.full := rfl
@[simp] theorem Circ.toBlock_size : (c.toBlock p).size = c.size := rfl

@[simp] theorem Circ.toNat_pointerBits (a : Nat) :
    (Circ.pointerBits p a).toNat = a % 2 ^ Circ.pointerWidth p := by
  simp [Circ.pointerBits]

@[simp] theorem Circ.toNat_headBits : (c.headBits p).toNat = c.head % 2 ^ Circ.pointerWidth p := by
  simp [Circ.headBits]

@[simp] theorem Circ.toNat_tailBits : (c.tailBits p).toNat = c.tail % 2 ^ Circ.pointerWidth p := by
  simp [Circ.tailBits]

/-- Writing a cell leaves every other cell (R97). -/
theorem Circ.readCell_writeCell_ne {a a' : Nat} (v : α) (h : a ≠ a') :
    (c.writeCell a v).readCell p a' = c.readCell p a' := by
  simp [Circ.readCell, Circ.writeCell, h]

/-- A written cell of the array reads as what was written. -/
theorem Circ.readCell_writeCell_self {a : Nat} (v : α) (h : a < c.mem.length) :
    (c.writeCell a v).readCell p a = v := by
  simp [Circ.readCell, Circ.writeCell, h]

end Sys2Proof.Machine
end

