-- ==== Sys2Proof/Laws/PerInstr.lean ====
section
/-! SUPPORT. Per-operation families of statements: the control word of every operation falls under its own row of the
operation table (spec/30_encoding.md R48, R50). -/

namespace Sys2Proof.Laws.ControlWordInRow

/-- The control word that asks for the operation is covered by the operation's row. -/
def Statement (i : Instr) : Prop := i.tableRow.covers (ctlWord (encode i)) = true

theorem reset (w r : Bool) (d : Nat) : Statement (.reset w r d) := by
  cases w <;> cases r <;> simp [Statement, Instr.tableRow, TableRow.covers, ctlWord, encode]

theorem idle (d : Nat) : Statement (.idle d) := by
  simp [Statement, Instr.tableRow, TableRow.covers, ctlWord, encode]

theorem read (d : Nat) : Statement (.read d) := by
  simp [Statement, Instr.tableRow, TableRow.covers, ctlWord, encode]

theorem write (d : Nat) : Statement (.write d) := by
  simp [Statement, Instr.tableRow, TableRow.covers, ctlWord, encode]

theorem readWrite (d : Nat) : Statement (.readWrite d) := by
  simp [Statement, Instr.tableRow, TableRow.covers, ctlWord, encode]

end Sys2Proof.Laws.ControlWordInRow
end

