-- ==== Sys2Proof/Tests/Slice0.lean ====
section
/-! SUPPORT. Tests of the model against spec/95_test_vectors.md, and witnesses that the hypotheses of the statements can
be met. Every expected value is the spec's. -/

namespace Sys2Proof.Tests

open Sys2Proof.Machine

/-- A consistent state of an instance with 8-bit elements and `ELEM_DEFAULT = 0x00`, given its store and `data_out`. -/
def stateOf (depth : Nat) (q : List (BitVec 8)) (dataOut : BitVec 8) (h : 1 ≤ depth := by decide) : State :=
  { cfg := { depth := depth, dataWidth := 8, elemDefault := 0, depth_pos := h }, q := q, dataOut := dataOut,
    empty := q.length == 0, full := q.length == depth, size := q.length, pending := [] }

/-- A power-on state of the reference instance: empty store, the flags as given (`data_out` arbitrary). -/
def powerOnOf (size : Nat) (empty full : Bool) : State :=
  State.powerOn Config.reference { dataOut := 0xAA#8, empty := empty, full := full, size := size }

/-- The whole store, `data_out`, `size`, `empty`, `full` after an operation. -/
def shows (o : Host.Outcome State Fault Refusal) (q : List Nat) (dataOut : Nat) (size : Nat)
    (empty full : Bool) : Bool :=
  match o with
  | .next t => t.contents == q && t.outputs == { dataOut := dataOut, full := full, empty := empty, size := size }
  | .fault _ => false
  | .refused _ => false

/-! ## Well-formedness -/

/-- `DATA_WIDTH ≥ 1` (R6): an instance without data wires is refused. -/
theorem test_construct_width_zero_refused : construct 8 0 0 ⟨0, false, false, 0⟩ = .refused .dataWidthZero := rfl

/-- Eight wires carry eight bits (R6): what `exec` stores of a number that does not fit them fits them. -/
theorem test_write_carries_eight_bits : shows (exec (.write 300) (stateOf 8 [] 0)) [300 % 256] 0 1 false false = true := by
  decide

theorem test_inputs_wide_refused :
    ¬ Inputs.WellFormed 8 { reset := true, writeRequest := true, readRequest := false, dataIn := 256 } := by decide

theorem test_instr_wide_refused : ¬ (Instr.write 256).WellFormed 8 := by decide

theorem test_line_wide_refused : (Line.push 256).isWellFormed 8 = false := by decide

theorem test_line_times_zero_refused : (Line.times .reset 0).isWellFormed 8 = false := by decide

/-! ## Decoding (R48 to R51, section 3.5) -/

theorem test_decode_reset : decodeCmd 8 0b01111101110 = .ok (.reset true true 0b11101110) := by decide

theorem test_decode_idle : decodeCmd 8 0b10010101011 = .ok (.idle 0b10101011) := by decide

theorem test_decode_read : decodeCmd 8 0b10111111111 = .ok (.read 0b11111111) := by decide

theorem test_decode_write : decodeCmd 8 0b11000111010 = .ok (.write 0b00111010) := by decide

theorem test_decode_readWrite : decodeCmd 8 0b11110011001 = .ok (.readWrite 0b10011001) := by decide

theorem test_decode_too_wide : decodeCmd 8 0x800 = .error .tooWide := by decide

/-- The canonical words of R57. -/
theorem test_encode_canonical :
    [encodeCmd 8 (.reset false false 0), encodeCmd 8 (.idle 0), encodeCmd 8 (.read 0), encodeCmd 8 (.write 0x3A),
      encodeCmd 8 (.readWrite 0x99)] = [0x000, 0x400, 0x500, 0x63A, 0x799] := by decide

/-- The five rows of spec/opcode_table.json by their match values. -/
theorem test_table_words :
    [0b000, 0b100, 0b101, 0b110, 0b111].map (decodeTableWord 8) =
      [some (.reset false false 0), some (.idle 0), some (.read 0), some (.write 0), some (.readWrite 0)] := by decide

theorem test_table_reset_don't_cares :
    [0b001, 0b010, 0b011].map (decodeTableWord 8) =
      [some (.reset false true 0), some (.reset true false 0), some (.reset true true 0)] := by decide

/-! ## Written runs (R57, R58) -/

theorem test_parse_read_write :
    parseLine ['R','E','A','D','_','W','R','I','T','E',' ','0','x','9','9',' ',';',' ','x'] =
      .ok (some (.readWrite 0x99)) := by decide

theorem test_parse_reset_with :
    parseLine ['R','E','S','E','T',' ','1',' ','0',' ','0','x','E','e'] = .ok (some (.resetWith true false 0xEE)) := by
  decide

theorem test_parse_times : parseLine ['R','E','A','D',' ','*','5'] = .ok (some (.times .read 5)) := by decide

theorem test_parse_comment : parseLine [' ',';','R','E','A','D'] = .ok none := by decide

theorem test_parse_unknown_refused : parseLine ['P','E','E','K'] = .error .unknownOperation := by decide

theorem test_parse_missing_operand_refused : parseLine ['W','R','I','T','E'] = .error .badOperand := by decide

theorem test_parse_count_refused : parseLine ['P','O','P','*'] = .error .badCount := by decide

theorem test_expand_times : (Line.times .pop 2).expand = [.read 0, .read 0] := by decide

/-! ## One edge (sections 3.1 to 3.4) -/

/-- V-RST-4: an empty queue, but `data_out` still changes. -/
theorem test_reset_of_empty : shows (exec (.reset false false 0) (stateOf 8 [] 0x42)) [] 0 0 true false = true := by
  decide

/-- V-RST-8: both requests at a reset edge, `DEPTH = 1`. -/
theorem test_reset_ignores_requests :
    shows (exec (.reset true true 0xEE) (stateOf 1 [0xC3] 0xC1)) [] 0 0 true false = true := by decide

/-- V-ID-3. -/
theorem test_idle_full :
    shows (exec (.idle 0xAB) (stateOf 4 [1, 2, 3, 4] 9)) [1, 2, 3, 4] 9 4 false true = true := by decide

/-- V-RD-5: full and empty swap. -/
theorem test_read_depth_one : shows (exec (.read 0) (stateOf 1 [0x5A] 0)) [] 0x5A 0 true false = true := by decide

/-- V-RD-1: read of empty, `data_out` kept. -/
theorem test_read_empty : shows (exec (.read 0) (stateOf 8 [] 0x17)) [] 0x17 0 true false = true := by decide

/-- V-WR-5: empty to full in one edge. -/
theorem test_write_depth_one : shows (exec (.write 0xFF) (stateOf 1 [] 0)) [0xFF] 0 1 false true = true := by decide

/-- V-WR-6: dropped. -/
theorem test_write_full : shows (exec (.write 2) (stateOf 1 [1] 0)) [1] 0 1 false true = true := by decide

/-- V-RW-9: the write does not see the slot the read frees. -/
theorem test_readWrite_full : shows (exec (.readWrite 3) (stateOf 2 [1, 2] 0)) [2] 1 1 false false = true := by decide

/-- V-RW-1: no fall-through. -/
theorem test_readWrite_empty :
    shows (exec (.readWrite 0x3A) (stateOf 8 [] 7)) [0x3A] 7 1 false false = true := by decide

/-- V-RW-10. -/
theorem test_readWrite_middle : shows (exec (.readWrite 3) (stateOf 2 [1] 0)) [3] 1 1 false false = true := by decide

/-- V-PO-1: inconsistent flags persist. -/
theorem test_powerOn_idle : shows (exec (.idle 0) (powerOnOf 5 false false)) [] 0xAA 5 false false = true := by decide

/-- V-PO-2: an admitted write repairs the flags. -/
theorem test_powerOn_write :
    shows (exec (.write 0x11) (powerOnOf 5 false false)) [0x11] 0xAA 1 false false = true := by decide

/-- V-PO-5. -/
theorem test_powerOn_read_faults : exec (.read 0) (powerOnOf 0 false false) = .fault .underflowBeforeReset := rfl

/-- V-PO-6. -/
theorem test_powerOn_readWrite_faults :
    exec (.readWrite 0x11) (powerOnOf 0 false false) = .fault .underflowBeforeReset := rfl

/-- V-CFG-1. -/
theorem test_construct_zero : construct 0 8 0 ⟨0, false, false, 0⟩ = .refused .capacityZero := rfl

/-- V-CFG-3: a capacity that is no power of two. -/
theorem test_construct_three : shows (construct 3 8 0 ⟨7, true, false, 2⟩) [] 7 2 true false = true := by decide

/-- A placed word is what the very next step runs. -/
theorem test_step_runs_placed_word :
    shows (step (State.reset.withFetchWord 8 0b110)) [0] 0 1 false false = true := by decide

/-- Three cells of 8 bits. -/
def three : Params (BitVec 8) := { depth := 3, elemDefault := 0, depth_pos := by decide }

/-- A concrete state with both indices wrapped: edge 8 of P4. -/
def circ : Circ (BitVec 8) :=
  { mem := [4, 2, 3], head := 2, tail := 1, count := 2, dataOut := 2, empty := false, full := false, size := 2 }

/-- Edge 9 of P4: the head wraps while the tail advances, in different cells. -/
theorem test_circ_wrap :
    (match circ.step three { reset := true, writeRequest := true, readRequest := true, dataIn := 6 } with
      | .next c => (c.mem, c.head, c.tail, c.count, c.dataOut, c.elements three) == ([4, 6, 3], 0, 2, 2, 3, [4, 6])
      | .fault _ => false
      | .refused _ => false) = true := by decide

/-! ## Witnesses: the hypotheses of each statement can be met together -/

def resetVector : Inputs := { reset := false, writeRequest := true, readRequest := true, dataIn := 0xEE }
def rwVector : Inputs := { reset := true, writeRequest := true, readRequest := true, dataIn := 0x99 }
def middle : State := stateOf 2 [1] 0
def filled : State := stateOf 2 [1, 2] 0
def vacant : State := stateOf 2 [] 0

theorem witness_ResetClearsEveryState : resetVector.reset = false := by decide

theorem witness_RepeatedResetIsOneReset :
    [resetVector, resetVector] ≠ [] ∧ ∀ v ∈ [resetVector, resetVector], v.reset = false := by decide

theorem witness_ConstructionRefusesZeroCapacity : (1 : Nat) ≤ 1 := by decide

theorem witness_EdgesBeforeFirstReset :
    ((powerOnOf 0 true true).q = [] ∧ (powerOnOf 0 true true).empty = true ∧ (powerOnOf 0 true true).full = true) ∧
    ((powerOnOf 0 true false).q = [] ∧ (powerOnOf 0 true false).empty = true ∧ (powerOnOf 0 true false).full = false) ∧
    ((powerOnOf 0 false true).q = [] ∧ (powerOnOf 0 false true).empty = false ∧ (powerOnOf 0 false true).full = true) ∧
    ((powerOnOf 0 false false).q = [] ∧ (powerOnOf 0 false false).empty = false ∧
      (powerOnOf 0 false false).full = false) := by decide

theorem witness_ReadDequeuesFront_dropped : vacant.empty = true := by decide

theorem witness_ReadDequeuesFront_admitted :
    Consistent (stateOf 1 [5] 0) ∧ (stateOf 1 [5] 0).empty = false ∧ (stateOf 1 [5] 0).q = 5 :: [] := by decide

theorem witness_WriteAppendsDataIn_dropped : filled.full = true := by decide

theorem witness_WriteAppendsDataIn_admitted :
    Consistent (stateOf 1 [] 0) ∧ (stateOf 1 [] 0).full = false ∧
      (stateOf 1 [] 0).q.length < (stateOf 1 [] 0).cfg.depth := by decide

theorem witness_WriteAppendsDataIn_word : 255 < 256 := by decide

theorem witness_ReadWriteServesByOldFlags_middle :
    (middle.empty = false → middle.q ≠ []) ∧
      (middle.full = false → (if middle.empty then middle.q else middle.q.tail).length < middle.cfg.depth) := by decide

theorem witness_ReadWriteServesByOldFlags_vacant :
    (vacant.empty = false → vacant.q ≠ []) ∧
      (vacant.full = false → (if vacant.empty then vacant.q else vacant.q.tail).length < vacant.cfg.depth) := by decide

theorem witness_ReadWriteThreeCases :
    (Consistent (stateOf 1 [] 0) ∧ (stateOf 1 [] 0).q = []) ∧
    (Consistent middle ∧ middle.q = 1 :: [] ∧ middle.q.length < middle.cfg.depth) ∧
    (Consistent (stateOf 1 [5] 0) ∧ (stateOf 1 [5] 0).q = 5 :: [] ∧
      (stateOf 1 [5] 0).q.length = (stateOf 1 [5] 0).cfg.depth) := by decide

theorem witness_EdgeIsTheWholeStep :
    resetVector.reset = false ∧ rwVector.reset = true ∧ Consistent middle ∧
      ((rwVector.readRequest && !middle.empty) = true → middle.q ≠ []) ∧
      ((rwVector.writeRequest && !middle.full) = true → middle.q.tail.length < middle.cfg.depth) := by decide

theorem witness_DroppedRequestsChangeNothing :
    filled.full = true ∧ vacant.empty = true ∧ (powerOnOf 0 true true).full = true ∧
      (powerOnOf 0 true true).empty = true := by decide

theorem witness_DataOutIsRetained_reset :
    exec (decode resetVector) middle = .next (State.afterReset middle.cfg []) ∧ resetVector.reset = false := ⟨rfl, rfl⟩

theorem witness_DataOutIsRetained_read :
    exec (decode rwVector) middle = .next (stateOf 2 [0x99] 1) ∧ rwVector.reset = true ∧
      rwVector.readRequest = true ∧ middle.empty = false := ⟨rfl, rfl, rfl, rfl⟩

theorem witness_DataOutIsRetained_kept :
    exec (decode rwVector) vacant = .next (stateOf 2 [0x99] 0) ∧ rwVector.reset = true ∧ vacant.empty = true :=
  ⟨rfl, rfl, rfl⟩

theorem witness_NoSameEdgeFallThrough :
    exec (withDataIn 7 (.readWrite 0)) middle = .next (stateOf 2 [7] 1) ∧
      exec (withDataIn 8 (.readWrite 0)) middle = .next (stateOf 2 [8] 1) ∧ Consistent vacant ∧ vacant.q = [] :=
  ⟨rfl, rfl, by decide, rfl⟩

theorem witness_DepthOneAlternates :
    (Consistent (stateOf 1 [] 0) ∧ (stateOf 1 [] 0).cfg.depth = 1 ∧ (stateOf 1 [] 0).empty = true) ∧
    (Consistent (stateOf 1 [5] 0) ∧ (stateOf 1 [5] 0).cfg.depth = 1 ∧ (stateOf 1 [5] 0).empty = false) := by decide

theorem witness_UnusedDataInHasNoEffect :
    usesDataIn (.read 3) = false ∧ (usesDataIn (.write 3) = true ∧ filled.full = true) := by decide

theorem witness_FlagsFollowMutation :
    (rwVector.reset = true ∧ exec (decode rwVector) middle = .next (stateOf 2 [0x99] 1)) ∧
      exec (decode { rwVector with writeRequest := false, readRequest := false }) middle = .next middle :=
  ⟨⟨rfl, rfl⟩, rfl⟩

theorem witness_EmptyAndFullExclude :
    (Consistent middle ∧ middle.empty = false ∧ middle.full = false) ∧
      (Consistent (stateOf 1 [] 0) ∧ (stateOf 1 [] 0).cfg.depth = 1) := by decide

theorem witness_NextLengthFormula : Consistent filled ∧ rwVector.reset = true := by decide

theorem witness_OccupancyTable :
    (Consistent vacant ∧ 2 ≤ vacant.cfg.depth) ∧ (Consistent middle ∧ 2 ≤ middle.cfg.depth) ∧
      (Consistent filled ∧ 2 ≤ filled.cfg.depth) := by decide

theorem witness_SizeWidthIsLeast : Consistent filled := by decide

/-- The state from which the step invariants are witnessed: one more vector to come. -/
def waiting : State := { filled with pending := [rwVector] }

theorem witness_step_invariants :
    WithinCapacity waiting ∧ Consistent waiting ∧ FromPowerOn waiting ∧ DataFits waiting ∧
      step waiting = .next (stateOf 2 [2] 1) :=
  ⟨by decide, by decide, by decide, by decide, rfl⟩

theorem witness_ConsistencyIsPreserved_reset :
    ({ powerOnOf 5 false true with pending := [resetVector] } : State).pending = resetVector :: [] ∧
      resetVector.reset = false ∧
      step { powerOnOf 5 false true with pending := [resetVector] } = .next State.reset := ⟨rfl, rfl, rfl⟩

theorem witness_PowerOnStatesStaySound_power_on :
    FromPowerOn { powerOnOf 5 false false with pending := [{ rwVector with readRequest := false }] } ∧
      ∃ t, step { powerOnOf 5 false false with pending := [{ rwVector with readRequest := false }] } = .next t :=
  ⟨by decide, _, rfl⟩

theorem witness_EveryInputIsServed :
    (Consistent filled ∧ filled.q.length = filled.cfg.depth) ∧ (Consistent vacant ∧ vacant.q = []) := by decide

theorem witness_OnlyUnderflowStops :
    FromPowerOn (powerOnOf 0 false false) ∧
      exec (.read 0) (powerOnOf 0 false false) = .fault .underflowBeforeReset ∧
      exec (.write 3) { filled with full := false } = .fault .pushPastCapacity := ⟨by decide, rfl, rfl⟩

theorem witness_OperationsKeepInstanceAndInputs : exec (.write 7) middle = .next (stateOf 2 [1, 7] 0) := rfl

theorem witness_ReadFrame :
    (exec (.read 0) filled = .next (stateOf 2 [2] 1) ∧ filled.empty = false) ∧
      (exec (.read 0) vacant = .next vacant ∧ vacant.empty = true) := ⟨⟨rfl, rfl⟩, rfl, rfl⟩

theorem witness_WriteFrame :
    (exec (.write 7) middle = .next (stateOf 2 [1, 7] 0) ∧ middle.full = false) ∧
      (exec (.write 7) filled = .next filled ∧ filled.full = true) := ⟨⟨rfl, rfl⟩, rfl, rfl⟩

theorem witness_ReadWriteFrame :
    (exec (.readWrite 7) middle = .next (stateOf 2 [7] 1) ∧ middle.empty = false ∧ middle.full = false) ∧
      (exec (.readWrite 7) vacant = .next (stateOf 2 [7] 0) ∧ vacant.empty = true) ∧
      (exec (.readWrite 7) filled = .next (stateOf 2 [2] 1) ∧ filled.full = true) :=
  ⟨⟨rfl, rfl, rfl⟩, ⟨rfl, rfl⟩, rfl, rfl⟩

theorem witness_StepRunsDecodedOperation :
    waiting.pending = rwVector :: [] ∧ decodeTableWord 8 0b101 = some (.read 0) := by decide

theorem witness_RunEndsWithItsVectors : State.reset.pending = [] := by decide

theorem witness_FirstInFirstOut :
    (Consistent middle ∧ ResetFree [rwVector, rwVector]) ∧ (resetVector.reset = false ∧ ResetFree [rwVector, rwVector]) ∧
      0 < (dequeued [rwVector, rwVector] vacant).length := by decide

theorem witness_FullNeedsExcessWrites : Consistent middle ∧ ResetFree [rwVector] := by decide

theorem witness_FullQueueRefillsInTwoEdges :
    Consistent (stateOf 1 [5] 0) ∧ (stateOf 1 [5] 0).full = true := by decide

theorem witness_LaunchPremiseSuffices : StartsWithReset [resetVector, rwVector] = true := by decide

theorem witness_PowerOnDrawIsForgotten :
    (powerOnOf 5 false true).cfg = State.reset.cfg ∧ (powerOnOf 5 false true).pending = State.reset.pending ∧
      StartsWithReset [resetVector, rwVector] = true := by decide

theorem witness_StreamingIsSustained :
    Consistent middle ∧ 0 < middle.q.length ∧ middle.q.length < middle.cfg.depth := by decide

theorem witness_DecodeOfEncodeIsIdentity : (Instr.write 255).WellFormed 8 := by decide

theorem witness_EveryCommandWordHasOneOperation : 0x7FF < 2 ^ (3 + 8) ∧ 2 ^ (3 + 8) ≤ 0x800 := by decide

theorem witness_CommandWordFields : rwVector.WellFormed 8 := by decide

theorem witness_ResetWordsAreDontCare : 0x3FF < 0x400 := by decide

theorem witness_TableRowsPartitionControlWords : 7 < 8 := by decide

theorem witness_PseudoOperationsAreSynonyms : 1 ≤ 1 := by decide

/-- Pins at a low and a high level of the clock with settled inputs, and with another `data_in`. -/
def lowPins : Pins := { clk := .low, reset := .high, writeRequest := .high, readRequest := .high, dataIn := some 0x99 }
def highPins : Pins := { lowPins with clk := .high }
def otherPins : Pins := { highPins with dataIn := some 0x11 }

theorem witness_BetweenEdgesNothingIsSeen :
    (highPins.clk ≠ .undriven ∧ (∀ m ∈ [{ lowPins with reset := Level.low }], m.clk = .low) ∧ lowPins.clk = .low) ∧
      (highPins.clk = .high ∧ (∀ m ∈ [otherPins], m.clk = .high) ∧ highPins.clk = .high) := by decide

theorem witness_RisingEdgeSamplesSettledInputs :
    (lowPins.clk = .low ∧ highPins.clk = .high ∧ lowPins.sample = some rwVector ∧ highPins.sample = some rwVector) ∧
      otherPins.sample ≠ some rwVector ∧ ({ lowPins with reset := Level.undriven } : Pins).sample = none ∧
      ({ lowPins with clk := Level.undriven } : Pins).clk = .undriven := by decide

/-- The concrete state as the store of a machine. -/
def circState : State := (stateOf 3 [3, 4] 2)

theorem witness_CircularBufferRefinesStore :
    (circ.Inv three ∧ ∃ c, circ.step three { reset := true, writeRequest := true, readRequest := true, dataIn := 6 } = .next c) ∧
      circ.Inv circState.cfg.params ∧ circ.toBlock circState.cfg.params = circState.block :=
  ⟨⟨by decide, _, rfl⟩, by decide, rfl⟩

theorem witness_CircularResetLeavesCells :
    (resetVector.map (BitVec.ofNat 8)).reset = false ∧ circ.mem.length = three.depth ∧
      ([9, 9, 9] : List (BitVec 8)).length = three.depth := by decide

/-- Pointer widths by hand from R91: 0 bits for one cell, 1 for two, 2 for three and four, 3 for five and eight, 4 for
nine. -/
theorem test_pointer_widths :
    [Circ.pointerWidth ({ depth := 1, elemDefault := 0, depth_pos := by decide } : Params (BitVec 8)),
      Circ.pointerWidth ({ depth := 2, elemDefault := 0, depth_pos := by decide } : Params (BitVec 8)),
      Circ.pointerWidth three,
      Circ.pointerWidth ({ depth := 4, elemDefault := 0, depth_pos := by decide } : Params (BitVec 8)),
      Circ.pointerWidth ({ depth := 5, elemDefault := 0, depth_pos := by decide } : Params (BitVec 8)),
      Circ.pointerWidth ({ depth := 8, elemDefault := 0, depth_pos := by decide } : Params (BitVec 8)),
      Circ.pointerWidth ({ depth := 9, elemDefault := 0, depth_pos := by decide } : Params (BitVec 8))] =
      [0, 1, 2, 2, 3, 3, 4] := by decide

/-- Three cells and one cell. -/
theorem witness_PointerWidthIsLeast :
    circ.Inv three ∧
      Circ.Inv ({ depth := 1, elemDefault := 0, depth_pos := by decide } : Params (BitVec 8))
        { mem := [7], head := 0, tail := 0, count := 1, dataOut := 0, empty := false, full := true, size := 1 } := by
  decide

/-- The last index, the one before it, and a power of two. -/
theorem witness_PointersAdvanceModuloDepth :
    2 < three.depth ∧ 2 = three.depth - 1 ∧ 1 < three.depth ∧ 1 ≠ three.depth - 1 ∧
      Config.reference.params.depth = 2 ^ 3 := by decide

theorem witness_ReadAndWriteCellsDiffer :
    circ.Inv three ∧ circ.empty = (circ.count == 0) ∧ circ.full = (circ.count == three.depth) ∧
      readAdmitted true circ.empty = true ∧ writeAdmitted true circ.full = true := by decide

theorem witness_WriteKeepsValidCells : circ.Inv three ∧ circ.count < three.depth := by decide

theorem witness_ComputedFlagsAreEnough : Consistent middle := by decide

theorem witness_EdgeOverAnyElementType :
    resetVector.reset = false ∧ rwVector.reset = true ∧
      (readAdmitted rwVector.readRequest middle.block.empty = true → middle.block.q ≠ []) ∧
      (writeAdmitted rwVector.writeRequest middle.block.full = true →
        middle.block.q.tail.length < middle.cfg.params.depth) := by decide

theorem witness_StoredDataIsExact :
    (Fits middle.cfg.dataWidth 255 ∧ Consistent middle ∧ middle.full = false) ∧
      Fits vacant.cfg.dataWidth 255 ∧ Consistent vacant ∧ vacant.full = false ∧ vacant.q = [] := by decide

theorem witness_ElementsKeepTheirWidth : exec (.write 300) middle = .next (stateOf 2 [1, 44] 0) := rfl

end Sys2Proof.Tests
end

/-! # Scope: an edge of a consistent state, and runs after a reset edge -/

namespace Sys2Proof.Machine

/-! ## Consistent states -/

section
variable {s : State}

/-- The state after reset is consistent (R21, R61): an empty store is not full, since `DEPTH ≥ 1`. -/
theorem consistent_afterReset (c : Config) (vs : List Inputs) : Consistent (State.afterReset c vs) := by
  have hd : c.depth ≠ 0 := Nat.one_le_iff_ne_zero.mp c.depth_pos
  simp [Consistent, hd.symm]

/-- A block whose flags were just recomputed makes a consistent state if its store is within capacity (R79, R80). -/
theorem consistent_withBlock_recomputeFlags {b : Block s.cfg.Element} (hb : b.q.length ≤ s.cfg.depth) :
    Consistent (s.withBlock (b.recomputeFlags s.cfg.params)) :=
  ⟨hb, rfl, rfl, rfl⟩

/-- An admitted read of a consistent state finds a front, and leaves room behind it (R66, R21). -/
theorem exists_front_of_readAdmitted {rd : Bool} (hs : Consistent s) (hr : readAdmitted rd s.empty = true) :
    ∃ x rest, s.q = x :: rest ∧ rest.length < s.cfg.depth := by
  obtain ⟨hcap, -, hempty, -⟩ := hs
  have hne : s.q ≠ [] := by simp_all [readAdmitted]
  obtain ⟨x, rest, hq⟩ := List.exists_cons_of_ne_nil hne
  exact ⟨x, rest, hq, by simpa [hq] using hcap⟩

/-- An admitted write of a consistent state finds room (R67, R21). -/
theorem length_lt_depth_of_writeAdmitted {wr : Bool} (hs : Consistent s) (hw : writeAdmitted wr s.full = true) :
    s.q.length < s.cfg.depth := by
  obtain ⟨hcap, -, -, hfull⟩ := hs
  have hne : s.q.length ≠ s.cfg.depth := by simp_all [writeAdmitted]
  exact Nat.lt_of_le_of_ne hcap hne

/-- The edge without reset serves every consistent state and keeps it consistent (R54, R86). -/
theorem normalEdge_of_consistent (hs : Consistent s) (rd wr : Bool) (v : s.cfg.Element) :
    ∃ b, normalEdge s.cfg.params rd wr v s.block = .next b ∧ Consistent (s.withBlock b) := by
  cases hr : readAdmitted rd s.empty <;> cases hw : writeAdmitted wr s.full
  case false.false => exact ⟨_, normalEdge_neither hr hw, hs⟩
  case false.true =>
    have hl := length_lt_depth_of_writeAdmitted hs hw
    exact ⟨_, normalEdge_write hr hw hl, consistent_withBlock_recomputeFlags (by simpa using hl)⟩
  case true.false =>
    obtain ⟨x, rest, hq, hl⟩ := exists_front_of_readAdmitted hs hr
    exact ⟨_, normalEdge_read hr hw hq, consistent_withBlock_recomputeFlags hl.le⟩
  case true.true =>
    obtain ⟨x, rest, hq, hl⟩ := exists_front_of_readAdmitted hs hr
    exact ⟨_, normalEdge_both hr hw hq hl, consistent_withBlock_recomputeFlags (by simpa using hl)⟩

/-- Every input vector is served in a consistent state, and the next state is consistent (R54, R86). -/
theorem exec_decode_of_consistent (v : Inputs) (hs : Consistent s) :
    ∃ t, exec (decode v) s = .next t ∧ Consistent t := by
  cases hv : v.reset with
  | false => exact ⟨_, exec_decode_of_reset hv, consistent_afterReset _ _⟩
  | true =>
    obtain ⟨b, hb, hcons⟩ := normalEdge_of_consistent hs v.readRequest v.writeRequest (s.cfg.port v.dataIn)
    exact ⟨_, (exec_decode_of_normal hv).trans (onBlock_of_next hb), hcons⟩

end

/-! ## Runs and what is seen of them -/

section
variable {s t : State} {v : Inputs}

/-- A run goes on from the state after its first edge (R40). -/
theorem runInputs_cons_of_next (h : exec (decode v) s = .next t) (vs : List Inputs) :
    runInputs (v :: vs) s = runInputs vs t := by
  simp [runInputs, h]

/-- What is seen of a run is the outputs after its first edge, then what is seen of the rest (R12). -/
theorem observe_cons_of_next (h : exec (decode v) s = .next t) (vs : List Inputs) :
    observe (v :: vs) s = t.outputs :: observe vs t := by
  simp [observe, h]

/-- A run from a consistent state shows the outputs once for every vector: it never stops (R12, R54). -/
theorem length_observe_of_consistent (vs : List Inputs) (hs : Consistent s) : (observe vs s).length = vs.length := by
  induction vs generalizing s with
  | nil => rfl
  | cons v vs ih =>
    obtain ⟨t, hexec, ht⟩ := exec_decode_of_consistent v hs
    rw [observe_cons_of_next hexec, List.length_cons, List.length_cons, ih ht]

/-- A list that meets the launch premise is a reset vector and whatever follows it (R122). -/
theorem exists_reset_cons_of_startsWithReset {vs : List Inputs} (h : StartsWithReset vs = true) :
    ∃ v ws, vs = v :: ws ∧ v.reset = false := by
  cases vs with
  | nil => simp [StartsWithReset] at h
  | cons v ws => exact ⟨v, ws, rfl, by simpa [StartsWithReset] using h⟩

end

/-- Settles O40: the reset edge takes both states to the state after reset of their one instance, which is consistent,
so that the run from there never stops. -/
theorem powerOnDrawIsForgotten : Obligations.PowerOnDrawIsForgotten := by
  intro s s' vs hcfg hpending hstart
  obtain ⟨v, ws, rfl, hv⟩ := exists_reset_cons_of_startsWithReset hstart
  have hs : exec (decode v) s = .next (State.afterReset s.cfg s.pending) := exec_decode_of_reset hv
  have hs' : exec (decode v) s' = .next (State.afterReset s.cfg s.pending) := by
    rw [hcfg, hpending]
    exact exec_decode_of_reset hv
  refine ⟨?_, ?_, ?_⟩
  · rw [runInputs_cons_of_next hs, runInputs_cons_of_next hs']
  · rw [observe_cons_of_next hs, observe_cons_of_next hs']
  · rw [observe_cons_of_next hs, List.length_cons, List.length_cons,
      length_observe_of_consistent ws (consistent_afterReset _ _)]

end Sys2Proof.Machine

/-! # Scope: what a run without reset enqueues and dequeues -/

namespace Sys2Proof.Machine

section
variable {s t : State} {v : Inputs} {vs : List Inputs}

/-- A run from a consistent state is served to its end and ends consistent (R54, R86). -/
theorem exists_runInputs_of_consistent (vs : List Inputs) (hs : Consistent s) :
    ∃ t, runInputs vs s = .next t ∧ Consistent t := by
  induction vs generalizing s with
  | nil => exact ⟨s, rfl, hs⟩
  | cons v vs ih =>
    obtain ⟨t, hexec, ht⟩ := exec_decode_of_consistent v hs
    rw [runInputs_cons_of_next hexec]
    exact ih ht

/-! ## The values of one edge -/

/-- An edge without reset that has a next state enqueues what the data port carries if its write is admitted (R67, R69). -/
theorem enqueued_singleton (hv : v.reset = true) (h : exec (decode v) s = .next t) :
    enqueued [v] s = if writeAdmitted v.writeRequest s.full then [(s.cfg.port v.dataIn).toNat] else [] := by
  simp [enqueued, h, writePredicted, hv]

/-- An edge without reset that has a next state dequeues what `data_out` then shows if its read is admitted (R66, R68). -/
theorem dequeued_singleton (hv : v.reset = true) (h : exec (decode v) s = .next t) :
    dequeued [v] s = if readAdmitted v.readRequest s.empty then [t.dataOut.toNat] else [] := by
  simp [dequeued, h, readPredicted, hv]

/-- A run enqueues what its first edge does, then what the rest of it does. -/
theorem enqueued_cons_of_next (h : exec (decode v) s = .next t) (vs : List Inputs) :
    enqueued (v :: vs) s = enqueued [v] s ++ enqueued vs t := by
  simp [enqueued, h]

/-- A run dequeues what its first edge does, then what the rest of it does. -/
theorem dequeued_cons_of_next (h : exec (decode v) s = .next t) (vs : List Inputs) :
    dequeued (v :: vs) s = dequeued [v] s ++ dequeued vs t := by
  simp [dequeued, h]

/-! ## First in, first out -/

/-- One edge without reset, in any state: an admitted write joins the store at the back, and an admitted read takes the
front of the store away (R68, R69). -/
theorem contents_append_enqueued_singleton (hv : v.reset = true) (h : exec (decode v) s = .next t) :
    s.contents ++ enqueued [v] s = dequeued [v] s ++ t.contents := by
  rw [enqueued_singleton hv h, dequeued_singleton hv h]
  rw [exec_decode_of_normal hv, onBlock_eq_next_iff] at h
  obtain ⟨b, hb, rfl⟩ := h
  have hcases := normalEdge_cases hb
  simp only [State.block_q, State.block_empty, State.block_full] at hcases
  obtain ⟨hr, hw, rfl⟩ | ⟨hr, hw, x, rest, hq, rfl⟩ | ⟨hr, hw, -, rfl⟩ | ⟨hr, hw, x, rest, hq, -, rfl⟩ := hcases
  · simp [hr, hw]
  · simp [hr, hw, hq, State.contents]
  · simp [hr, hw, State.contents]
  · simp [hr, hw, hq, State.contents]

/-- A run without reset that is served to its end, from any state: what was stored and then what was enqueued is what was
dequeued and then what is stored (R43). -/
theorem contents_append_enqueued (hvs : ResetFree vs) (h : runInputs vs s = .next t) :
    s.contents ++ enqueued vs s = dequeued vs s ++ t.contents := by
  induction vs generalizing s with
  | nil =>
    cases h
    simp [enqueued, dequeued]
  | cons v vs ih =>
    obtain ⟨hv, hvs⟩ := List.forall_mem_cons.mp hvs
    obtain ⟨u, hexec, hrun⟩ := andThen_eq_next_iff.mp h
    calc s.contents ++ enqueued (v :: vs) s
        = (s.contents ++ enqueued [v] s) ++ enqueued vs u := by
          rw [enqueued_cons_of_next hexec, List.append_assoc]
      _ = dequeued [v] s ++ (u.contents ++ enqueued vs u) := by
          rw [contents_append_enqueued_singleton hv hexec, List.append_assoc]
      _ = dequeued (v :: vs) s ++ t.contents := by
          rw [ih hvs hrun, dequeued_cons_of_next hexec vs, List.append_assoc]

/-- From an empty store, what a served run without reset dequeues is the first part of what it enqueues (R43). -/
theorem dequeued_isPrefix_enqueued (hq : s.q = []) (hvs : ResetFree vs) (h : runInputs vs s = .next t) :
    dequeued vs s <+: enqueued vs s := by
  refine ⟨t.contents, ?_⟩
  rw [← contents_append_enqueued hvs h, State.contents, hq, List.map_nil, List.nil_append]

end

/-- Settles O36: every edge without reset keeps "stored, then enqueued" equal to "dequeued, then stored", and a run of a
consistent state is served to its end; after a reset edge nothing is stored, so the values dequeued are the first of those
enqueued. -/
theorem firstInFirstOut : Obligations.FirstInFirstOut := by
  constructor
  · intro s vs hs hvs
    obtain ⟨t, hrun, -⟩ := exists_runInputs_of_consistent vs hs
    exact ⟨t, hrun, contents_append_enqueued hvs hrun⟩
  · intro s v vs hv hvs
    refine ⟨_, exec_decode_of_reset hv, fun n hn => ?_⟩
    obtain ⟨t, hrun, -⟩ := exists_runInputs_of_consistent vs (consistent_afterReset s.cfg s.pending)
    have hpre := dequeued_isPrefix_enqueued (State.afterReset_q _ _) hvs hrun
    rw [List.getElem?_eq_getElem hn, hpre.getElem hn, List.getElem?_eq_getElem]

end Sys2Proof.Machine

/-! # Scope: requests that cannot be served, and the words of RESET -/

namespace Sys2Proof.Machine

section
variable {s : State}

/-! ## Requests that cannot be served -/

/-- A WRITE is dropped while `full` is shown, in any state (R75). -/
theorem exec_write_of_full (d : Nat) (h : s.full = true) : exec (.write d) s = .next s :=
  onBlock_of_next (normalEdge_neither rfl (by simp [writeAdmitted, h]))

/-- A READ is dropped while `empty` is shown, in any state (R75). -/
theorem exec_read_of_empty (d : Nat) (h : s.empty = true) : exec (.read d) s = .next s :=
  onBlock_of_next (normalEdge_neither (by simp [readAdmitted, h]) rfl)

/-- A consistent state shows `full` exactly when its store holds `DEPTH` elements (R21). -/
theorem full_iff_length_eq_depth (hs : Consistent s) : s.full = true ↔ s.q.length = s.cfg.depth := by
  obtain ⟨-, -, -, hfull⟩ := hs
  rw [hfull, beq_iff_eq]

/-- A consistent state shows `empty` exactly when its store holds no element (R21). -/
theorem empty_iff_q_eq_nil (hs : Consistent s) : s.empty = true ↔ s.q = [] := by
  obtain ⟨-, -, hempty, -⟩ := hs
  rw [hempty, beq_iff_eq, List.length_eq_zero_iff]

/-! ## The words of RESET -/

/-- With the wire `reset` at 0 the operation is RESET, whatever else is on the inputs (R51). -/
theorem decode_of_reset {v : Inputs} (hv : v.reset = false) :
    decode v = .reset v.writeRequest v.readRequest v.dataIn :=
  if_pos hv

/-- Without reset the two requests alone choose the operation (R50). -/
theorem decode_of_normal {v : Inputs} (hv : v.reset = true) :
    decode v = match v.writeRequest, v.readRequest with
      | false, false => .idle v.dataIn
      | false, true => .read v.dataIn
      | true, false => .write v.dataIn
      | true, true => .readWrite v.dataIn := by
  cases hw : v.writeRequest <;> cases hr : v.readRequest <;> simp [decode, hv, hw, hr]

/-- A control word below 4 has the bit of the wire `reset` clear (R48). -/
theorem inputsOfCtl_reset_of_lt {ctl : Nat} (d : Nat) (h : ctl < 4) : (inputsOfCtl ctl d).reset = false :=
  Nat.testBit_lt_two_pow h

/-- A command word with the top bit clear is RESET, at every width; its other bits are the ignored inputs (R49, R51). -/
theorem decodeCmd_of_lt {width n : Nat} (h : n < 4 * 2 ^ width) :
    decodeCmd width n =
      .ok (.reset ((n / 2 ^ width).testBit 1) ((n / 2 ^ width).testBit 0) (n % 2 ^ width)) := by
  have hctl : n / 2 ^ width < 4 := Nat.div_lt_of_lt_mul (by omega)
  have hn : n < 2 ^ (3 + width) := by rw [Nat.pow_add]; omega
  rw [decodeCmd, if_pos hn, decode_of_reset (inputsOfCtl_reset_of_lt _ hctl)]
  rfl

/-- RESET has one effect, whatever its ignored inputs are (R51, R61). -/
theorem exec_reset_eq (w r w' r' : Bool) (d d' : Nat) (s : State) :
    exec (.reset w r d) s = exec (.reset w' r' d') s :=
  (exec_reset d s w r).trans (exec_reset d' s w' r').symm

end

/-- Settles O27: in a consistent state a request is admitted only where the store can serve it, and a store at `DEPTH` or
with no element shows the flag that drops the request. -/
theorem everyInputIsServed : Obligations.EveryInputIsServed := by
  refine ⟨fun v s hs => exec_decode_of_consistent v hs, fun d s hs => ⟨fun hq => ?_, fun hq => ?_⟩⟩
  · exact exec_write_of_full d ((full_iff_length_eq_depth hs).mpr hq)
  · exact exec_read_of_empty d ((empty_iff_q_eq_nil hs).mpr hq)

/-- Settles O46: a word below 0x400 has the bit of the wire `reset` clear, so it decodes to RESET, which ignores the
inputs in its other bits. -/
theorem resetWordsAreDontCare : Obligations.ResetWordsAreDontCare := by
  refine ⟨fun n hn => ?_, rfl, fun v => ?_⟩
  · exact ⟨_, _, _, decodeCmd_of_lt (width := 8) hn, fun s => exec_reset_eq ..⟩
  · split
    case isTrue hv => exact decode_of_reset hv
    case isFalse hv => exact decode_of_normal (Bool.eq_true_of_not_eq_false hv)

end Sys2Proof.Machine

/-! # Scope: reset edges, one and many -/

namespace Sys2Proof.Machine

/-- RESET leaves the state after reset of the same instance, whatever its ignored inputs are and whatever the state was
(R61, R62). -/
theorem exec_reset_eq_afterReset (w r : Bool) (d : Nat) (s : State) :
    exec (.reset w r d) s = .next (State.afterReset s.cfg s.pending) := by
  rw [exec_reset, State.withBlock_clear]

/-- Further reset edges leave the state after reset as it is (R63). -/
theorem runInputs_afterReset {vs : List Inputs} (hvs : ∀ v ∈ vs, v.reset = false) (c : Config) (ps : List Inputs) :
    runInputs vs (State.afterReset c ps) = .next (State.afterReset c ps) := by
  induction vs with
  | nil => rfl
  | cons v vs ih =>
    obtain ⟨hv, hvs⟩ := List.forall_mem_cons.mp hvs
    have hstep : exec (decode v) (State.afterReset c ps) = .next (State.afterReset c ps) := exec_decode_of_reset hv
    rw [runInputs_cons_of_next hstep, ih hvs]

/-- Settles O3: the first reset edge leaves the state after reset, which every further reset edge leaves as it is. -/
theorem repeatedResetIsOneReset : Obligations.RepeatedResetIsOneReset := by
  intro vs s hne hvs
  obtain ⟨v, ws, rfl⟩ := List.exists_cons_of_ne_nil hne
  obtain ⟨hv, hws⟩ := List.forall_mem_cons.mp hvs
  rw [runInputs_cons_of_next (exec_decode_of_reset hv), runInputs_afterReset hws]

/-- Settles O2: the wire `reset` is decoded before the requests, and the next state RESET answers is the state after reset,
which takes only the configuration and the vectors to come from the state before. -/
theorem resetClearsEveryState : Obligations.ResetClearsEveryState :=
  ⟨fun _ hv => decode_of_reset hv, rfl, exec_reset_eq_afterReset⟩

end Sys2Proof.Machine

/-! # Scope: the requests of an edge, dropped and admitted -/

namespace Sys2Proof.Machine

/-- A command word is the control word at its place, with a `data_in` that fits in the bits below it (R48, R49). -/
theorem encodeCmd_eq_or {width : Nat} {i : Instr} (hi : i.WellFormed width) :
    encodeCmd width i = ctlWord (encode i) <<< width ||| i.dataIn := by
  rw [encodeCmd, Nat.shiftLeft_eq, Nat.mul_comm, Nat.two_pow_add_eq_or_of_lt hi]

section
variable {α : Type} {p : Params α} {b b' : Block α} {rd wr rd' wr' : Bool} {v : α}

/-- Of the two requests an edge sees only whether each is admitted (R65 to R67). -/
theorem normalEdge_congr (hr : readAdmitted rd b.empty = readAdmitted rd' b.empty)
    (hw : writeAdmitted wr b.full = writeAdmitted wr' b.full) :
    normalEdge p rd wr v b = normalEdge p rd' wr' v b := by
  simp only [normalEdge, hr, hw]

/-- An edge without reset writes `data_out` only in its read effect, with the front before the edge (R68, R76). -/
theorem dataOut_of_normalEdge (h : normalEdge p rd wr v b = .next b') :
    if readAdmitted rd b.empty then b.q.head? = some b'.dataOut else b'.dataOut = b.dataOut := by
  obtain ⟨hr, -, rfl⟩ | ⟨hr, -, x, rest, hq, rfl⟩ | ⟨hr, -, -, rfl⟩ | ⟨hr, -, x, rest, hq, -, rfl⟩ :=
    normalEdge_cases h
  · simp [hr]
  · simp [hr, hq]
  · simp [hr]
  · simp [hr, hq]

end

section
variable {s : State}

/-! ## READ_WRITE with a request dropped -/

/-- READ_WRITE is READ while `full` is shown, in any state (R75). -/
theorem exec_readWrite_of_full (d : Nat) (h : s.full = true) : exec (.readWrite d) s = exec (.read d) s :=
  congrArg (mapOutcome s.withBlock) (normalEdge_congr rfl (by simp [writeAdmitted, h]))

/-- READ_WRITE is WRITE while `empty` is shown, in any state (R75). -/
theorem exec_readWrite_of_empty (d : Nat) (h : s.empty = true) : exec (.readWrite d) s = exec (.write d) s :=
  congrArg (mapOutcome s.withBlock) (normalEdge_congr (by simp [readAdmitted, h]) rfl)

/-! ## Admitted requests -/

/-- An admitted READ takes the front off and recomputes the flags (R71). -/
theorem exec_read_of_front {x : s.cfg.Element} {rest : List s.cfg.Element} (d : Nat) (he : s.empty = false)
    (hq : s.q = x :: rest) :
    exec (.read d) s =
      .next { s with q := rest, dataOut := x, size := rest.length, empty := (rest.length == 0),
                     full := (rest.length == s.cfg.depth) } :=
  onBlock_of_next (normalEdge_read (by simp [readAdmitted, he]) rfl hq)

/-- An admitted WRITE appends the element on the port and recomputes the flags (R72). -/
theorem exec_write_of_room (d : Nat) (hf : s.full = false) (hl : s.q.length < s.cfg.depth) :
    exec (.write d) s =
      .next { s with q := s.q ++ [s.cfg.port d], size := s.q.length + 1, empty := false,
                     full := (s.q.length + 1 == s.cfg.depth) } := by
  have hedge : exec (.write d) s = _ := onBlock_of_next (normalEdge_write rfl (by simp [writeAdmitted, hf]) hl)
  simpa [State.withBlock] using hedge

/-- A READ_WRITE admitted as a whole takes the front off, appends the element on the port and recomputes the flags
(R73). -/
theorem exec_readWrite_of_front_of_room {x : s.cfg.Element} {rest : List s.cfg.Element} (d : Nat)
    (he : s.empty = false) (hf : s.full = false) (hq : s.q = x :: rest) (hl : rest.length < s.cfg.depth) :
    exec (.readWrite d) s =
      .next { s with q := rest ++ [s.cfg.port d], dataOut := x, size := rest.length + 1, empty := false,
                     full := (rest.length + 1 == s.cfg.depth) } := by
  have hedge : exec (.readWrite d) s = _ :=
    onBlock_of_next (normalEdge_both (by simp [readAdmitted, he]) (by simp [writeAdmitted, hf]) hq hl)
  simpa [State.withBlock] using hedge

end

/-- Settles O7: an admitted READ of a consistent state finds a front, and what stays behind it is one element shorter
than the store was, so it is below `DEPTH`. -/
theorem readDequeuesFront : Obligations.ReadDequeuesFront := by
  refine ⟨fun d => decode_encode (.read d), rfl, fun d s => exec_read_of_empty d,
    fun d s x rest => exec_read_of_front d, fun d s hs he => ?_⟩
  obtain ⟨x, rest, hq, hl⟩ := exists_front_of_readAdmitted (rd := true) hs (by simp [readAdmitted, he])
  have hsize : s.size = rest.length + 1 := by
    obtain ⟨-, hsize, -, -⟩ := hs
    rw [hsize, hq, List.length_cons]
  refine ⟨_, exec_read_of_front d he hq, ?_, hsize.symm, ?_⟩
  · simpa using hl.ne
  · simp [hsize]

/-- Settles O8: an admitted WRITE of a consistent state finds room, and the flags after it are those of the store with one
element more. -/
theorem writeAppendsDataIn : Obligations.WriteAppendsDataIn := by
  refine ⟨fun d => decode_encode (.write d), fun d hd => ?_, fun d s => exec_write_of_full d,
    fun d s => exec_write_of_room d, fun d s hs hf => ?_⟩
  · have hfits : (Instr.write d).WellFormed 8 := hd
    rw [encodeCmd_eq_or hfits]
    simp [ctlWord, encode, Instr.dataIn]
  · have hl := length_lt_depth_of_writeAdmitted (wr := true) hs (by simp [writeAdmitted, hf])
    obtain ⟨-, hsize, -, -⟩ := hs
    refine ⟨_, exec_write_of_room d hf hl, rfl, ?_, rfl, ?_⟩
    · rw [hsize]
    · simp

/-- Settles O9: with a flag at 1 before the edge READ_WRITE is the other operation alone, or neither; with both flags at 0
both effects are applied and the flags are updated once. -/
theorem readWriteServesByOldFlags : Obligations.ReadWriteServesByOldFlags := by
  refine ⟨fun d => decode_encode (.readWrite d), fun d hd => ?_, fun d s hfront hroom => ?_⟩
  · have hfits : (Instr.readWrite d).WellFormed 8 := hd
    rw [encodeCmd_eq_or hfits]
    simp [ctlWord, encode, Instr.dataIn]
  · cases he : s.empty with
    | true =>
      rw [exec_readWrite_of_empty d he]
      cases hf : s.full with
      | true =>
        rw [exec_write_of_full d hf]
        cases s
        cases he
        cases hf
        rfl
      | false =>
        have hl : s.q.length < s.cfg.depth := by simpa [he] using hroom hf
        simp [exec_write_of_room d hf hl]
    | false =>
      obtain ⟨x, rest, hq⟩ := List.exists_cons_of_ne_nil (hfront he)
      cases hf : s.full with
      | true =>
        rw [exec_readWrite_of_full d hf]
        simp [exec_read_of_front d he hq, hq]
      | false =>
        have hl : rest.length < s.cfg.depth := by simpa [he, hq] using hroom hf
        simp [exec_readWrite_of_front_of_room d he hf hq hl, hq]

/-- Settles O12: an edge sees a dropped request as no request at all. -/
theorem droppedRequestsChangeNothing : Obligations.DroppedRequestsChangeNothing := fun d _ =>
  ⟨exec_write_of_full d, exec_read_of_empty d, exec_readWrite_of_full d, exec_readWrite_of_empty d,
    fun hf he => (exec_readWrite_of_full d hf).trans (exec_read_of_empty d he)⟩

/-- Settles O13: a reset edge sets `data_out` to `ELEM_DEFAULT`, and of the edges without reset only those with an admitted
read write it. -/
theorem dataOutIsRetained : Obligations.DataOutIsRetained := by
  intro v s t h
  obtain ⟨hv, rfl⟩ | ⟨hv, b, rfl, hb⟩ := exec_decode_cases h
  · simp [hv]
  · have hout := dataOut_of_normalEdge hb
    rw [State.block_q, State.block_dataOut, State.block_empty] at hout
    refine ⟨by simp [hv], fun _ hrd he => ?_, fun _ hdrop => ?_⟩
    · have hfront : s.q.head? = some b.dataOut := by simpa [readAdmitted, hrd, he] using hout
      simp [State.contents, hfront]
    · have hr : readAdmitted v.readRequest s.empty = false := by
        rcases hdrop with hrd | he
        · simp [readAdmitted, hrd]
        · simp [readAdmitted, he]
      have hkept : b.dataOut = s.dataOut := by simpa [hr] using hout
      simp [hkept]

/-- Settles O6: with neither request IDLE is an edge that admits nothing, whatever the flags show. -/
theorem idleChangesNothing : Obligations.IdleChangesNothing :=
  ⟨fun d => decode_encode (.idle d), rfl, exec_idle⟩

end Sys2Proof.Machine

/-! # Scope: the flag update of an edge -/

namespace Sys2Proof.Machine

section
variable {α : Type} {p : Params α} {b b' : Block α} {rd wr : Bool} {v : α}

/-- An edge without reset shows the flags of the store it leaves if it admitted a request, and the flags it found if it
admitted none (R79, R81). -/
theorem flags_of_normalEdge (h : normalEdge p rd wr v b = .next b') :
    if readAdmitted rd b.empty || writeAdmitted wr b.full then
      b'.size = b'.q.length ∧ b'.empty = (b'.q.length == 0) ∧ b'.full = (b'.q.length == p.depth)
    else b'.size = b.size ∧ b'.empty = b.empty ∧ b'.full = b.full := by
  obtain ⟨hr, hw, rfl⟩ | ⟨hr, -, x, rest, -, rfl⟩ | ⟨-, hw, -, rfl⟩ | ⟨hr, -, x, rest, -, -, rfl⟩ :=
    normalEdge_cases h
  · simp [hr, hw]
  · simp [hr]
  · simp [hw]
  · simp [hr]

end

/-- Settles O17: without reset the next state holds the block of the shared edge, which updates its flags once, by the
admissions on the flags before it. -/
theorem flagsFollowMutation : Obligations.FlagsFollowMutation := by
  intro v s t hv h
  rw [exec_decode_of_normal hv, onBlock_eq_next_iff] at h
  obtain ⟨b, hb, rfl⟩ := h
  exact flags_of_normalEdge hb

end Sys2Proof.Machine

/-! # Scope: what every step keeps -/

namespace Sys2Proof.Machine

section
variable {s t : State} {i : Instr} {v : Inputs} {vs : List Inputs}

/-! ## A step as the operation of the next vector -/

/-- A step takes the next vector from the list and does its operation (R10). -/
theorem step_of_pending (h : s.pending = v :: vs) : step s = exec (decode v) { s with pending := vs } := by
  unfold step
  rw [h]

/-- With no vector to come there is no edge (R12). -/
theorem step_of_pending_nil (h : s.pending = []) : step s = .refused .noInputVector := by
  unfold step
  rw [h]

/-- A step that has a next state found a vector to come, and did its operation. -/
theorem exists_exec_of_step (h : step s = .next t) :
    ∃ v vs, s.pending = v :: vs ∧ exec (decode v) { s with pending := vs } = .next t := by
  cases hp : s.pending with
  | nil => simp [step_of_pending_nil hp] at h
  | cons v vs => exact ⟨v, vs, rfl, step_of_pending hp ▸ h⟩

/-- The host's run is a step, then the rest of the run from its next state. -/
theorem run_succ (M : Host.Core) (k : Nat) (s : M.State) :
    M.run (k + 1) s = andThen (M.step s) (M.run k) := by
  rw [Host.Core.run]
  cases M.step s <;> rfl

/-! ## The part of the state an operation can write -/

/-- An operation is the edge of the block on the inputs that ask for it (R60). -/
theorem exec_eq_onBlock (i : Instr) (s : State) :
    exec i s = s.onBlock (Block.step s.cfg.params ((encode i).map s.cfg.port)) := by
  simpa using exec_decode (encode i) s

/-- The next state of an operation is the state before it with another block. -/
theorem exists_withBlock_of_exec (h : exec i s = .next t) : ∃ b, t = s.withBlock b := by
  rw [exec_eq_onBlock, onBlock_eq_next_iff] at h
  obtain ⟨b, -, ht⟩ := h
  exact ⟨b, ht⟩

/-- No operation changes the instance (R25). -/
theorem cfg_of_exec (h : exec i s = .next t) : t.cfg = s.cfg := by
  obtain ⟨b, rfl⟩ := exists_withBlock_of_exec h
  rfl

/-- No operation reads or writes the vectors to come (R24). -/
theorem exec_withPending (i : Instr) (s : State) (ps : List Inputs) :
    exec i { s with pending := ps } = mapOutcome (fun t => { t with pending := ps }) (exec i s) := by
  rw [exec_eq_onBlock, exec_eq_onBlock]
  unfold State.onBlock
  change mapOutcome _ (Block.step s.cfg.params ((encode i).map s.cfg.port) s.block) = _
  cases Block.step s.cfg.params ((encode i).map s.cfg.port) s.block <;> rfl

/-- An edge of a store within capacity changes nothing or ends consistent: where it admits a request it recomputes the
flags, from a store that is still within capacity (R79). -/
theorem eq_or_consistent_of_exec (hcap : WithinCapacity s) (h : exec (decode v) s = .next t) :
    t = s ∨ Consistent t := by
  obtain ⟨-, rfl⟩ | ⟨-, b, rfl, hb⟩ := exec_decode_cases h
  · exact .inr (consistent_afterReset _ _)
  · obtain ⟨-, -, rfl⟩ | ⟨-, -, x, rest, hq, rfl⟩ | ⟨-, -, hl, rfl⟩ | ⟨-, -, x, rest, -, hl, rfl⟩ :=
      normalEdge_cases hb
    · exact .inl rfl
    · have hl : rest.length < s.q.length := by simp_all
      exact .inr (consistent_withBlock_recomputeFlags (hl.le.trans hcap))
    · exact .inr (consistent_withBlock_recomputeFlags (by simpa using hl))
    · exact .inr (consistent_withBlock_recomputeFlags (by simpa using hl))

/-- A state as a run from power-on shows it is within capacity (R15, R17). -/
theorem withinCapacity_of_fromPowerOn (hs : FromPowerOn s) : WithinCapacity s := by
  rcases hs with hq | ⟨hcap, -⟩
  · simp [WithinCapacity, hq]
  · exact hcap

/-! ## The width of the data -/

/-- Every element of the store is a number of `DATA_WIDTH` bits, by its type (R6). -/
theorem fits_of_mem_contents {x : Nat} (hx : x ∈ s.contents) : Fits s.cfg.dataWidth x := by
  obtain ⟨e, -, rfl⟩ := List.mem_map.mp hx
  exact e.isLt

/-- Only of the vectors to come does it have to be said that the data fits (R6, R47). -/
theorem dataFits_iff : DataFits s ↔ ∀ v ∈ s.pending, v.WellFormed s.cfg.dataWidth :=
  ⟨fun ⟨_, _, _, hvs⟩ => hvs,
    fun hvs => ⟨s.cfg.elemDefault.isLt, s.dataOut.isLt, fun _ => fits_of_mem_contents, hvs⟩⟩

/-! ## Where an operation stops -/

/-- The two faults of an operation: an admitted read of a store with no element, and an admitted write on a store of
`DEPTH` elements or more (R118; log entries 6 and 7). -/
theorem exec_fault_cases {e : Fault} (h : exec i s = .fault e) :
    (e = .underflowBeforeReset ∧ s.q = [] ∧ s.empty = false ∧ ∃ d, i = .read d ∨ i = .readWrite d) ∨
    (e = .pushPastCapacity ∧ s.full = false ∧ s.cfg.depth ≤ s.q.length ∧ ∃ d, i = .write d ∨ i = .readWrite d) := by
  cases i with
  | reset w r d => simp [exec_reset] at h
  | idle d => simp [exec_idle] at h
  | read d =>
    have hcases := normalEdge_fault_cases (onBlock_eq_fault_iff.mp (exec_read d s ▸ h))
    simpa [readAdmitted, writeAdmitted, and_comm, and_assoc] using hcases
  | write d =>
    have hcases := normalEdge_fault_cases (onBlock_eq_fault_iff.mp (exec_write d s ▸ h))
    simpa [readAdmitted, writeAdmitted] using hcases
  | readWrite d =>
    obtain ⟨rfl, hr, hq⟩ | ⟨rfl, hw, hl⟩ :=
      normalEdge_fault_cases (onBlock_eq_fault_iff.mp (exec_readWrite d s ▸ h))
    · exact .inl ⟨rfl, hq, by simpa [readAdmitted] using hr, d, .inr rfl⟩
    · have htail : s.q.tail.length ≤ s.q.length := by simp
      refine .inr ⟨rfl, by simpa [writeAdmitted] using hw, ?_, d, .inr rfl⟩
      split at hl
      · exact hl.trans htail
      · exact hl

/-- An admitted READ of a store with no element faults (R118). -/
theorem exec_read_underflow (d : Nat) (hq : s.q = []) (he : s.empty = false) :
    exec (.read d) s = .fault .underflowBeforeReset :=
  onBlock_of_fault (normalEdge_underflow (by simp [readAdmitted, he]) hq)

/-- An admitted READ_WRITE of a store with no element faults (R118). -/
theorem exec_readWrite_underflow (d : Nat) (hq : s.q = []) (he : s.empty = false) :
    exec (.readWrite d) s = .fault .underflowBeforeReset :=
  onBlock_of_fault (normalEdge_underflow (by simp [readAdmitted, he]) hq)

/-- In a state as a run from power-on shows it, a store of `DEPTH` elements is shown as full (R17, R21). -/
theorem full_of_depth_le_length (hs : FromPowerOn s) (hl : s.cfg.depth ≤ s.q.length) : s.full = true := by
  rcases hs with hq | hs
  · have hd := s.cfg.depth_pos
    simp only [hq, List.length_nil] at hl
    omega
  · obtain ⟨hcap, -⟩ := id hs
    exact (full_iff_length_eq_depth hs).mpr (hcap.antisymm hl)

end

/-- Settles O23: the operation of the next vector serves every consistent state and ends consistent, and a reset edge ends
in the state after reset. -/
theorem consistencyIsPreserved : Obligations.ConsistencyIsPreserved := by
  constructor
  · intro s t hs h
    obtain ⟨v, vs, -, hexec⟩ := exists_exec_of_step h
    obtain ⟨t', hexec', ht'⟩ := exec_decode_of_consistent (s := { s with pending := vs }) v hs
    cases hexec.symm.trans hexec'
    exact ht'
  · intro s t v vs hp hv h
    rw [step_of_pending hp, exec_decode_of_reset hv] at h
    cases h
    exact consistent_afterReset _ _

/-- Settles O39: the reset edge leaves the state after reset, which is consistent, and a run of a consistent state is
served to its end. -/
theorem launchPremiseSuffices : Obligations.LaunchPremiseSuffices := by
  intro s vs hstart
  obtain ⟨v, ws, rfl, hv⟩ := exists_reset_cons_of_startsWithReset hstart
  rw [runInputs_cons_of_next (exec_decode_of_reset hv)]
  exact exists_runInputs_of_consistent ws (consistent_afterReset _ _)

/-- Settles O22: an edge that changes a store within capacity ends consistent. -/
theorem storeStaysWithinCapacity : Obligations.StoreStaysWithinCapacity := by
  intro s t hs h
  obtain ⟨v, vs, -, hexec⟩ := exists_exec_of_step h
  obtain rfl | ⟨hcap, -⟩ := eq_or_consistent_of_exec (s := { s with pending := vs }) hs hexec
  · exact hs
  · exact hcap

/-- Settles O24: an empty store is within capacity, so an edge that changes it ends consistent. -/
theorem powerOnStatesStaySound : Obligations.PowerOnStatesStaySound := by
  intro s t hs h
  obtain ⟨v, vs, -, hexec⟩ := exists_exec_of_step h
  obtain rfl | ht := eq_or_consistent_of_exec (s := { s with pending := vs }) (withinCapacity_of_fromPowerOn hs) hexec
  · exact hs
  · exact .inr ht

/-- Settles O25: the machine's own data fits by its type, in the width of an instance that no operation changes, and a
step only takes a vector off the list. -/
theorem elementsKeepTheirWidth : Obligations.ElementsKeepTheirWidth := by
  refine ⟨fun s => ⟨s.dataOut.isLt, fun _ => fits_of_mem_contents⟩, fun i s t h => ?_, fun s t hs h => ?_⟩
  · have hcfg := cfg_of_exec h
    rw [← hcfg]
    exact ⟨rfl, t.dataOut.isLt, fun _ => fits_of_mem_contents⟩
  · obtain ⟨v, vs, hp, hexec⟩ := exists_exec_of_step h
    obtain ⟨b, rfl⟩ := exists_withBlock_of_exec hexec
    rw [dataFits_iff, hp] at hs
    exact dataFits_iff.mpr (List.forall_mem_cons.mp hs).2

/-- Settles O28: of the two faults the second needs a store of `DEPTH` elements whose `full` is 0, which no run from
power-on shows. -/
theorem onlyUnderflowStops : Obligations.OnlyUnderflowStops := by
  refine ⟨fun s i hs => ⟨exec_ne_refused i s, fun e => ⟨fun h => ?_, ?_⟩⟩, fun s i h => ?_⟩
  · obtain hunder | ⟨-, hf, hl, -⟩ := exec_fault_cases h
    · exact hunder
    · simp [full_of_depth_le_length hs hl] at hf
  · rintro ⟨rfl, hq, he, d, rfl | rfl⟩
    · exact exec_read_underflow d hq he
    · exact exec_readWrite_underflow d hq he
  · obtain ⟨he, -⟩ | ⟨-, hpush⟩ := exec_fault_cases h
    · cases he
    · exact hpush

/-- Settles O29: an operation writes the block and nothing else. -/
theorem operationsKeepInstanceAndInputs : Obligations.OperationsKeepInstanceAndInputs := by
  intro i s t h
  obtain ⟨b, rfl⟩ := exists_withBlock_of_exec h
  exact ⟨rfl, rfl⟩

/-- Settles O35: by induction on the list, since no operation sees the vectors placed behind its own. -/
theorem runIsOneStepPerEdge : Obligations.RunIsOneStepPerEdge := by
  intro vs ws s
  induction vs generalizing s with
  | nil => rfl
  | cons v vs ih =>
    have hstep : step { s with pending := v :: vs ++ ws } =
        mapOutcome (fun t => { t with pending := vs ++ ws }) (exec (decode v) s) :=
      (step_of_pending rfl).trans (exec_withPending (decode v) s (vs ++ ws))
    refine (run_succ core vs.length _).trans ((congrArg (andThen · (core.run vs.length)) hstep).trans ?_)
    rw [runInputs, exec_withPending (decode v) s ws]
    cases exec (decode v) s with
    | next t => exact ih t
    | fault e => rfl
    | refused e => rfl

/-- Settles O26: a store with no element is within every capacity, and the state after reset of an instance is
consistent. -/
theorem invariantsHoldAtStart : Obligations.InvariantsHoldAtStart :=
  ⟨consistent_afterReset _ _, dataFits_iff.mpr (List.forall_mem_nil _), consistent_afterReset,
    fun _ _ => ⟨.inl rfl, withinCapacity_of_fromPowerOn (.inl rfl)⟩⟩

/-- Settles O33: a table word that decodes stands for an input vector, which is put in the place of the next one. -/
theorem stepRunsDecodedOperation : Obligations.StepRunsDecodedOperation := by
  refine ⟨fun s v vs => step_of_pending, fun s nbits w i h => ?_⟩
  obtain ⟨v, hv, rfl⟩ := Option.map_eq_some_iff.mp h
  rw [State.withFetchWord_of_some hv, step_of_pending rfl]

/-- Settles O34: a step needs a vector to come. -/
theorem runEndsWithItsVectors : Obligations.RunEndsWithItsVectors := fun _ => step_of_pending_nil

end Sys2Proof.Machine

/-! # Scope: operations and their words -/

namespace Sys2Proof.Machine

section
variable {i : Instr} {width w : Nat}

/-! ## The control word -/

/-- A control word has three bits (R48). -/
theorem ctlWord_lt (v : Inputs) : ctlWord v < 8 := by
  have hr := v.reset.toNat_lt
  have hw := v.writeRequest.toNat_lt
  have hrd := v.readRequest.toNat_lt
  unfold ctlWord
  omega

/-- The bits 2, 1, 0 of the control word are the wires `reset`, `write_request`, `read_request` (R48). -/
theorem testBit_ctlWord (v : Inputs) :
    (ctlWord v).testBit 2 = v.reset ∧ (ctlWord v).testBit 1 = v.writeRequest ∧
      (ctlWord v).testBit 0 = v.readRequest := by
  have hbits : ∀ r w rd : Bool, (4 * r.toNat + 2 * w.toNat + rd.toNat).testBit 2 = r ∧
      (4 * r.toNat + 2 * w.toNat + rd.toNat).testBit 1 = w ∧
      (4 * r.toNat + 2 * w.toNat + rd.toNat).testBit 0 = rd := by decide
  exact hbits v.reset v.writeRequest v.readRequest

/-- The control word with `data_in` beside it is the whole input vector (R48). -/
theorem inputsOfCtl_ctlWord (v : Inputs) : inputsOfCtl (ctlWord v) v.dataIn = v := by
  obtain ⟨hreset, hwrite, hread⟩ := testBit_ctlWord v
  rw [inputsOfCtl, hreset, hwrite, hread]

/-- Every number of three bits is the control word of the inputs it stands for (R48). -/
theorem ctlWord_inputsOfCtl {ctl : Nat} (d : Nat) (h : ctl < 8) : ctlWord (inputsOfCtl ctl d) = ctl := by
  have hbits : ∀ n < 8, 4 * (n.testBit 2).toNat + 2 * (n.testBit 1).toNat + (n.testBit 0).toNat = n := by decide
  exact hbits ctl h

/-- The control word of every operation falls under the operation's own row (R50). -/
theorem covers_ctlWord_encode (i : Instr) : i.tableRow.covers (ctlWord (encode i)) = true := by
  cases i with
  | reset w r d => exact Laws.ControlWordInRow.reset w r d
  | idle d => exact Laws.ControlWordInRow.idle d
  | read d => exact Laws.ControlWordInRow.read d
  | write d => exact Laws.ControlWordInRow.write d
  | readWrite d => exact Laws.ControlWordInRow.readWrite d

/-! ## The command word -/

/-- The input vector of an operation carries the operation's `data_in` (R49). -/
@[simp] theorem encode_dataIn (i : Instr) : (encode i).dataIn = i.dataIn := by cases i <;> rfl

/-- The command word has `3 + width` bits (R49). -/
theorem encodeCmd_lt (hi : i.WellFormed width) : encodeCmd width i < 2 ^ (3 + width) := by
  have hctl : ctlWord (encode i) ≤ 7 := Nat.le_of_lt_succ (ctlWord_lt _)
  have hd : i.dataIn < 2 ^ width := hi
  calc encodeCmd width i < ctlWord (encode i) * 2 ^ width + 2 ^ width := Nat.add_lt_add_left hd _
    _ = (ctlWord (encode i) + 1) * 2 ^ width := by ring
    _ ≤ 8 * 2 ^ width := Nat.mul_le_mul_right _ (Nat.succ_le_succ hctl)
    _ = 2 ^ (3 + width) := by rw [Nat.pow_add]

/-- Above its `data_in` the command word holds the control word (R49). -/
theorem encodeCmd_div (hi : i.WellFormed width) : encodeCmd width i / 2 ^ width = ctlWord (encode i) := by
  have hd : i.dataIn < 2 ^ width := hi
  rw [encodeCmd, Nat.mul_comm, Nat.mul_add_div (Nat.two_pow_pos width), Nat.div_eq_of_lt hd, Nat.add_zero]

/-- The low bits of the command word are `data_in` (R49). -/
theorem encodeCmd_mod (hi : i.WellFormed width) : encodeCmd width i % 2 ^ width = i.dataIn := by
  have hd : i.dataIn < 2 ^ width := hi
  rw [encodeCmd, Nat.mul_comm, Nat.mul_add_mod, Nat.mod_eq_of_lt hd]

/-- A bit of the command word above `data_in` is a bit of the control word (R49). -/
theorem testBit_encodeCmd (hi : i.WellFormed width) (k : Nat) :
    (encodeCmd width i).testBit (k + width) = (ctlWord (encode i)).testBit k := by
  rw [← encodeCmd_div hi, Nat.testBit_div_two_pow]

end

/-- Settles O43: division by `2 ^ width` parts the word into the control word and `data_in`, which together are the input
vector that asks for the operation. -/
theorem decodeOfEncodeIsIdentity : Obligations.DecodeOfEncodeIsIdentity := by
  intro width i hi
  rw [decodeCmd, if_pos (encodeCmd_lt hi), encodeCmd_div hi, encodeCmd_mod hi, ← encode_dataIn i,
    inputsOfCtl_ctlWord, decode_encode]

/-- Settles O44: the part of a word above `data_in` has three bits, so it is the control word of what it decodes to. -/
theorem everyCommandWordHasOneOperation : Obligations.EveryCommandWordHasOneOperation := by
  intro width w
  refine ⟨fun hw => ⟨_, if_pos hw, ?_, ?_⟩, fun hw => if_neg (Nat.not_lt.mpr hw)⟩
  · rw [Instr.WellFormed, decode_dataIn]
    exact Nat.mod_lt _ (Nat.two_pow_pos width)
  · have hctl : w / 2 ^ width < 8 := Nat.div_lt_of_lt_mul (by rw [Nat.mul_comm]; rwa [Nat.pow_add] at hw)
    rw [encodeCmd, encode_decode, decode_dataIn, ctlWord_inputsOfCtl _ hctl]
    exact Nat.div_add_mod' w (2 ^ width)

/-- Settles O45: the three control bits stand above the eight bits of `data_in`. -/
theorem commandWordFields : Obligations.CommandWordFields := by
  intro v hv
  have hi : (decode v).WellFormed 8 := by simpa [Instr.WellFormed] using hv
  obtain ⟨hreset, hwrite, hread⟩ := testBit_ctlWord v
  refine ⟨encodeCmd_lt hi, ?_, ?_, ?_, ?_⟩
  · rw [testBit_encodeCmd hi 2, encode_decode, hreset]
  · rw [testBit_encodeCmd hi 1, encode_decode, hwrite]
  · rw [testBit_encodeCmd hi 0, encode_decode, hread]
  · rw [← decode_dataIn v]
    exact encodeCmd_mod hi

/-- Settles O49: a synonym expands as what it stands for, and any positive number of reset edges leaves the state after
reset. -/
theorem pseudoOperationsAreSynonyms : Obligations.PseudoOperationsAreSynonyms := by
  refine ⟨rfl, fun _ => rfl, rfl, fun _ _ => rfl, fun n s hn => ?_⟩
  have hrepeat : ∀ k, (Line.times .reset k).expand = List.replicate k (.reset false false 0) := fun k => by
    simp [Line.expand, List.flatten_replicate_singleton]
  have hone : Line.reset.expand = List.replicate 1 (.reset false false 0) := rfl
  have hrun : ∀ k, 1 ≤ k → runInputs ((List.replicate k (Instr.reset false false 0)).map encode) s =
      .next (State.afterReset s.cfg s.pending) := fun k hk =>
    repeatedResetIsOneReset _ s (by simp; omega) (by simp [encode])
  rw [hrepeat, hone, hrun n hn, hrun 1 le_rfl]

/-- Settles O47: the eight control words are counted row by row, and the control word of an input vector is that of the
operation it decodes to. -/
theorem tableRowsPartitionControlWords : Obligations.TableRowsPartitionControlWords := by
  refine ⟨by decide, fun v => ⟨?_, ?_, ?_⟩⟩
  · cases decode v <;> simp [operationTable, Instr.tableRow]
  · simpa using covers_ctlWord_encode (decode v)
  · obtain ⟨r, w, rd, d⟩ := v
    cases r <;> cases w <;> cases rd <;> rfl

/-- Settles O48: each listed word is the command word of the operation listed for it. -/
theorem listedWordsDecode : Obligations.ListedWordsDecode :=
  ⟨decodeOfEncodeIsIdentity 8 (.reset false false 0) (by decide),
    decodeOfEncodeIsIdentity 8 (.reset true true 0xEE) (by decide),
    decodeOfEncodeIsIdentity 8 (.idle 0) (by decide), decodeOfEncodeIsIdentity 8 (.idle 0xAB) (by decide),
    decodeOfEncodeIsIdentity 8 (.read 0) (by decide), decodeOfEncodeIsIdentity 8 (.read 0xFF) (by decide),
    decodeOfEncodeIsIdentity 8 (.write 0x3A) (by decide), decodeOfEncodeIsIdentity 8 (.write 0) (by decide),
    decodeOfEncodeIsIdentity 8 (.readWrite 0x99) (by decide)⟩

end Sys2Proof.Machine

/-! # Scope: the edge over any type of elements, and the machine with computed flags -/

namespace Sys2Proof.Machine

/-! ## Viewing outcomes -/

section
variable {σ τ υ φ ρ : Type}

theorem mapOutcome_andThen (g : τ → υ) (o : Host.Outcome σ φ ρ) (f : σ → Host.Outcome τ φ ρ) :
    mapOutcome g (andThen o f) = andThen o fun s => mapOutcome g (f s) := by
  cases o <;> rfl

theorem andThen_mapOutcome (g : σ → τ) (o : Host.Outcome σ φ ρ) (f : τ → Host.Outcome υ φ ρ) :
    andThen (mapOutcome g o) f = andThen o fun s => f (g s) := by
  cases o <;> rfl

end

/-! ## Renaming of elements -/

section
variable {α β : Type} (f : α → β) (p : Params α) (b : Block α)

@[simp] theorem renameParams_depth : (renameParams f p).depth = p.depth := rfl

@[simp] theorem Block.rename_q : (b.rename f).q = b.q.map f := rfl
@[simp] theorem Block.rename_empty : (b.rename f).empty = b.empty := rfl
@[simp] theorem Block.rename_full : (b.rename f).full = b.full := rfl

theorem Block.rename_clear : (b.rename f).clear (renameParams f p) = (b.clear p).rename f := rfl

theorem Block.rename_latch (x : α) (rest : List α) :
    (b.rename f).latch (f x) (rest.map f) = (b.latch x rest).rename f := rfl

theorem Block.rename_append (v : α) : (b.rename f).append (f v) = (b.append v).rename f := by
  simp [Block.append, Block.rename]

/-- The flags are functions of the number of elements alone (R80). -/
theorem Block.rename_recomputeFlags :
    (b.rename f).recomputeFlags (renameParams f p) = (b.recomputeFlags p).rename f := by
  simp [Block.recomputeFlags, Block.rename, flagSize, flagEmpty, flagFull]

theorem readEffect_rename (d : Bool) : readEffect d (b.rename f) = mapOutcome (Block.rename f) (readEffect d b) := by
  cases d with
  | false => rfl
  | true => cases hq : b.q <;> simp [readEffect, popFront, hq, Block.rename_latch]

theorem writeEffect_rename (d : Bool) (v : α) :
    writeEffect (renameParams f p) d (f v) (b.rename f) = mapOutcome (Block.rename f) (writeEffect p d v b) := by
  cases d with
  | false => rfl
  | true => by_cases hl : b.q.length < p.depth <;> simp [writeEffect, pushBack, hl, Block.rename_append]

theorem updateFlags_rename (m : Bool) :
    updateFlags (renameParams f p) m (b.rename f) = (updateFlags p m b).rename f := by
  cases m with
  | false => rfl
  | true => exact Block.rename_recomputeFlags f p b

theorem normalEdge_rename (rd wr : Bool) (v : α) :
    normalEdge (renameParams f p) rd wr (f v) (b.rename f) =
      mapOutcome (Block.rename f) (normalEdge p rd wr v b) := by
  simp only [normalEdge, writeOperand, Block.rename_empty, Block.rename_full, readEffect_rename, writeEffect_rename,
    updateFlags_rename, mapOutcome_andThen, andThen_mapOutcome, mapOutcome_next]

end

/-- Settles O42: each effect of an edge commutes with the renaming, since it asks only whether the store has a front and
how many elements it holds. -/
theorem elementsAreNeverInspected : Obligations.ElementsAreNeverInspected := by
  intro α β f p v b
  cases hv : v.reset with
  | false =>
    rw [Block.step_of_reset (w := v.map f) hv, Block.step_of_reset hv, Block.rename_clear]
    rfl
  | true =>
    rw [Block.step_of_normal (w := v.map f) hv, Block.step_of_normal hv]
    exact normalEdge_rename f p b _ _ _

/-! ## The edge as one function -/

/-- Settles O57: the four admissions of an edge without reset, each with its effects and its flag update; and an operation
is the edge on the inputs that ask for it. -/
theorem edgeOverAnyElementType : Obligations.EdgeOverAnyElementType := by
  refine ⟨fun α p v b => ⟨Block.step_of_reset, fun hv hfront hroom => ?_⟩, exec_eq_onBlock⟩
  rw [Block.step_of_normal hv]
  cases hr : readAdmitted v.readRequest b.empty <;> cases hw : writeAdmitted v.writeRequest b.full
  case false.false => simp [normalEdge_neither hr hw]
  case false.true =>
    have hl : b.q.length < p.depth := by simpa [hr] using hroom hw
    simp [normalEdge_write hr hw hl, Block.recomputeFlags, Block.append, flagSize, flagEmpty, flagFull]
  case true.false =>
    obtain ⟨x, rest, hq⟩ := List.exists_cons_of_ne_nil (hfront hr)
    simp [normalEdge_read hr hw hq, Block.recomputeFlags, Block.latch, flagSize, flagEmpty, flagFull, hq]
  case true.true =>
    obtain ⟨x, rest, hq⟩ := List.exists_cons_of_ne_nil (hfront hr)
    have hl : rest.length < p.depth := by simpa [hr, hq] using hroom hw
    simp [normalEdge_both hr hw hq hl, Block.recomputeFlags, Block.latch, Block.append, flagSize, flagEmpty,
      flagFull, hq]

/-- Settles O11: a reset edge leaves the state after reset; every other edge is the edge over any type of elements at the
instance's own, whose `front` and `push_back` are defined in a consistent state. -/
theorem edgeIsTheWholeStep : Obligations.EdgeIsTheWholeStep := by
  refine ⟨fun v s => exec_decode_of_reset, fun v s hv =>
    ⟨fun hs => ⟨fun hr => ?_, fun hw => ?_⟩, fun hfront hroom => ?_⟩⟩
  · obtain ⟨x, rest, hq, -⟩ := exists_front_of_readAdmitted (rd := v.readRequest) hs hr
    simp [hq]
  · have hl := length_lt_depth_of_writeAdmitted (wr := v.writeRequest) hs hw
    split
    · simp; omega
    · exact hl
  · obtain ⟨hany, -⟩ := edgeOverAnyElementType
    obtain ⟨-, hedge⟩ := hany s.cfg.Element s.cfg.params (v.map s.cfg.port) s.block
    rw [exec_decode, onBlock_of_next (hedge hv hfront hroom)]
    rfl

/-! ## The machine with computed flags -/

section
variable {α : Type} (p : Params α) (w : QueueView α) (v : α)

/-- The reduced machine's edge with a read and a front to take (R87). -/
theorem QueueView.normalEdge_of_front {x : α} {rest : List α} (hq : w.q = x :: rest) (wr : Bool) :
    w.normalEdge p true wr v =
      if writeAdmitted wr (flagFull p.depth w.q) then { q := rest ++ [v], dataOut := x }
      else { q := rest, dataOut := x } := by
  simp [QueueView.normalEdge, writeOperand, hq]

/-- The reduced machine's edge without a read, or with no front to take (R87). -/
theorem QueueView.normalEdge_of_no_front {rd : Bool} (h : rd = false ∨ w.q = []) (wr : Bool) :
    w.normalEdge p rd wr v =
      if writeAdmitted wr (flagFull p.depth w.q) then { w with q := w.q ++ [v] } else w := by
  unfold QueueView.normalEdge writeOperand
  split
  · simp_all
  · rfl

end

section
variable {s : State} {rd wr : Bool} {v : s.cfg.Element} {b : Block s.cfg.Element}

/-- In a consistent state the stored flags are the computed ones (R85, R87). -/
theorem outputs_of_consistent (hs : Consistent s) : s.block.outputs = s.block.view.outputs s.cfg.params := by
  obtain ⟨-, hsize, hempty, hfull⟩ := hs
  simp [Block.outputs, QueueView.outputs, flagSize, flagEmpty, flagFull, hsize, hempty, hfull]

/-- The reduced machine does to the store and `data_out` what the machine does in a consistent state: it admits a read
where there is a front, and a write below `DEPTH` (R87). -/
theorem view_of_normalEdge (hs : Consistent s) (h : normalEdge s.cfg.params rd wr v s.block = .next b) :
    b.view = s.block.view.normalEdge s.cfg.params rd wr v := by
  have hfull : flagFull s.cfg.params.depth s.block.view.q = s.block.full := by
    obtain ⟨-, -, -, hfull⟩ := hs
    exact hfull.symm
  have hfront : readAdmitted rd s.block.empty = false → rd = false ∨ s.block.view.q = [] := fun hr => by
    cases rd with
    | false => exact .inl rfl
    | true => exact .inr ((empty_iff_q_eq_nil hs).mp (by simpa [readAdmitted] using hr))
  have hrd : readAdmitted rd s.block.empty = true → rd = true := fun hr => (Bool.and_eq_true_iff.mp hr).1
  obtain ⟨hr, hw, rfl⟩ | ⟨hr, hw, x, rest, hq, rfl⟩ | ⟨hr, hw, -, rfl⟩ | ⟨hr, hw, x, rest, hq, -, rfl⟩ :=
    normalEdge_cases h
  · rw [QueueView.normalEdge_of_no_front _ _ _ (hfront hr), hfull, hw]
    rfl
  · rw [hrd hr, QueueView.normalEdge_of_front _ _ _ hq, hfull, hw]
    rfl
  · rw [QueueView.normalEdge_of_no_front _ _ _ (hfront hr), hfull, hw]
    rfl
  · rw [hrd hr, QueueView.normalEdge_of_front _ _ _ hq, hfull, hw]
    rfl

/-- Every edge of a consistent state completes in a consistent state, and does to the store and `data_out` what the
reduced machine does (R87). -/
theorem step_of_consistent (hs : Consistent s) (w : Sample s.cfg.Element) :
    ∃ b, Block.step s.cfg.params w s.block = .next b ∧ Consistent (s.withBlock b) ∧
      b.view = s.block.view.step s.cfg.params w := by
  cases hw : w.reset with
  | false =>
    exact ⟨_, Block.step_of_reset hw, consistent_afterReset s.cfg s.pending, by rw [QueueView.step, if_pos hw]; rfl⟩
  | true =>
    obtain ⟨b, hb, hcons⟩ := normalEdge_of_consistent hs w.readRequest w.writeRequest w.dataIn
    refine ⟨b, (Block.step_of_normal hw).trans hb, hcons, ?_⟩
    rw [QueueView.step, if_neg (by simp [hw]), view_of_normalEdge hs hb]

end

/-- Settles O56: the flags of a consistent state are the computed ones, before the edge, where they judge the requests,
and after it, where they are shown. -/
theorem computedFlagsAreEnough : Obligations.ComputedFlagsAreEnough := by
  intro s i hs
  obtain ⟨b, hstep, hcons, hview⟩ := step_of_consistent hs ((encode i).map s.cfg.port)
  refine ⟨outputs_of_consistent hs, b, ?_, hcons, hview, ?_⟩
  · rw [exec_eq_onBlock, onBlock_of_next hstep]
  · rw [← hview]
    exact outputs_of_consistent hcons

end Sys2Proof.Machine

/-! # Scope: the circular buffer -/

namespace Sys2Proof.Machine

section
variable {α : Type} {p : Params α} {c : Circ α}

/-! ## Indices -/

/-- An index moved by at most `DEPTH` places wraps at most once (R95). -/
theorem add_mod_depth {a i : Nat} (ha : a < p.depth) (hi : i ≤ p.depth) :
    (a + i) % p.depth = if a + i < p.depth then a + i else a + i - p.depth := by
  split
  case isTrue h => exact Nat.mod_eq_of_lt h
  case isFalse h => rw [Nat.mod_eq_sub_mod (Nat.not_lt.mp h), Nat.mod_eq_of_lt (by omega)]

/-- The successor of an index is an index (R95). -/
theorem advance_lt (a : Nat) : Circ.advance p a < p.depth := Nat.mod_lt _ p.depth_pos

/-- Moving on from the successor of `a` is moving one place more from `a` (R95). -/
theorem advance_add_mod (a i : Nat) : (Circ.advance p a + i) % p.depth = (a + (i + 1)) % p.depth := by
  rw [Circ.advance, Nat.mod_add_mod, Nat.add_assoc, Nat.add_comm 1 i]

/-- A positive `n` has `ceil(log2(n + 1))` binary digits (R8, R91). -/
theorem log2_add_one_eq_clog {n : Nat} (hn : n ≠ 0) : Nat.log2 n + 1 = Nat.clog 2 (n + 1) := by
  apply le_antisymm
  · exact (Nat.lt_clog_iff_pow_lt Nat.one_lt_two).mpr (Nat.lt_succ_of_le (Nat.log2_self_le hn))
  · exact (Nat.clog_le_iff_le_pow Nat.one_lt_two).mpr Nat.lt_log2_self

/-- The pointer width is `ceil(log2(DEPTH))` (R91). -/
theorem pointerWidth_eq_clog (p : Params α) : Circ.pointerWidth p = Nat.clog 2 p.depth := by
  have hd := p.depth_pos
  unfold Circ.pointerWidth
  split
  case isTrue h => rw [h, Nat.clog_one_right]
  case isFalse h => rw [log2_add_one_eq_clog (by omega), Nat.sub_add_cancel hd]

/-- An index fits the pointer width (R91). -/
theorem lt_two_pow_pointerWidth {a : Nat} (ha : a < p.depth) : a < 2 ^ Circ.pointerWidth p := by
  rw [pointerWidth_eq_clog]
  exact ha.trans_le (Nat.le_pow_clog Nat.one_lt_two _)

/-! ## The invariant and the valid cells -/

/-- The tail is an index (R93). -/
theorem tail_lt_depth (hc : c.Inv p) : c.tail < p.depth := by
  obtain ⟨-, -, -, htail⟩ := hc
  rw [htail]
  exact Nat.mod_lt _ p.depth_pos

/-- Head and tail meet exactly when no cell or every cell is valid (R96). -/
theorem head_eq_tail_iff (hc : c.Inv p) : c.head = c.tail ↔ c.count = 0 ∨ c.count = p.depth := by
  obtain ⟨-, hcount, hhead, htail⟩ := hc
  rw [htail, add_mod_depth hhead hcount]
  split <;> omega

/-- With room the tail is no valid cell (R97). -/
theorem cell_ne_tail {i : Nat} (hc : c.Inv p) (hroom : c.count < p.depth) (hi : i < c.count) :
    (c.head + i) % p.depth ≠ c.tail := by
  obtain ⟨-, hcount, hhead, htail⟩ := hc
  rw [htail, add_mod_depth hhead hcount, add_mod_depth hhead (hi.le.trans hcount)]
  split <;> split <;> omega

/-- With room, writing the tail leaves the sequence (R97). -/
theorem elements_writeCell_tail (v : α) (hc : c.Inv p) (hroom : c.count < p.depth) :
    (c.writeCell c.tail v).elements p = c.elements p := by
  refine List.map_congr_left fun i hi => ?_
  exact c.readCell_writeCell_ne p v (cell_ne_tail hc hroom (List.mem_range.mp hi)).symm

/-! ## The two effects -/

/-- The state after an admitted read with a valid cell (R95). -/
def Circ.pop (p : Params α) (c : Circ α) : Circ α :=
  { c with dataOut := c.readCell p c.head, head := Circ.advance p c.head, count := c.count - 1 }

/-- The state after an admitted write with a free cell (R95). -/
def Circ.push (p : Params α) (v : α) (c : Circ α) : Circ α :=
  { c.writeCell c.tail v with tail := Circ.advance p c.tail, count := c.count + 1 }

theorem Circ.readEffect_of_pos (h : c.count ≠ 0) : c.readEffect p true = .next (c.pop p) := by
  simp [Circ.readEffect, h, Circ.pop]

theorem Circ.readEffect_of_zero (h : c.count = 0) : c.readEffect p true = .fault .underflowBeforeReset := by
  simp [Circ.readEffect, h]

theorem Circ.writeEffect_of_room {v : α} (h : c.count < p.depth) :
    c.writeEffect p true v = .next (c.push p v) := by
  simp [Circ.writeEffect, h, Circ.push]

theorem Circ.writeEffect_of_no_room {v : α} (h : ¬ c.count < p.depth) :
    c.writeEffect p true v = .fault .pushPastCapacity := by
  simp [Circ.writeEffect, h]

theorem inv_pop (hc : c.Inv p) (h : c.count ≠ 0) : (c.pop p).Inv p := by
  obtain ⟨hmem, hcount, -, htail⟩ := hc
  refine ⟨hmem, (Nat.sub_le _ _).trans hcount, advance_lt _, ?_⟩
  change c.tail = (Circ.advance p c.head + (c.count - 1)) % p.depth
  rw [advance_add_mod, Nat.sub_add_cancel (Nat.one_le_iff_ne_zero.mpr h), htail]

theorem inv_push (v : α) (hc : c.Inv p) (h : c.count < p.depth) : (c.push p v).Inv p := by
  obtain ⟨hmem, -, hhead, htail⟩ := hc
  refine ⟨by simpa [Circ.push, Circ.writeCell] using hmem, h, hhead, ?_⟩
  change Circ.advance p c.tail = (c.head + (c.count + 1)) % p.depth
  rw [htail, Circ.advance, Nat.mod_add_mod, Nat.add_assoc]

/-- With a valid cell, the sequence is the head cell and the sequence after a read (R92, R95). -/
theorem elements_eq_cons (hc : c.Inv p) (h : c.count ≠ 0) :
    c.elements p = c.readCell p c.head :: (c.pop p).elements p := by
  obtain ⟨-, -, hhead, -⟩ := hc
  obtain ⟨n, hn⟩ := Nat.exists_eq_succ_of_ne_zero h
  have htail : ∀ i, (c.pop p).readCell p ((Circ.advance p c.head + i) % p.depth) =
      c.readCell p ((c.head + (i + 1)) % p.depth) := fun i => by
    rw [advance_add_mod]
    rfl
  have hcount : (c.pop p).count = n := by simp [Circ.pop, hn]
  unfold Circ.elements
  rw [hn, List.range_succ_eq_map, hcount]
  simp only [List.map_cons, List.map_map, Nat.add_zero, Nat.mod_eq_of_lt hhead]
  exact congrArg _ (List.map_congr_left fun i _ => (htail i).symm)

/-- With a free cell, the sequence after a write is the sequence before it with the new element last (R92, R95). -/
theorem elements_push (v : α) (hc : c.Inv p) (h : c.count < p.depth) :
    (c.push p v).elements p = c.elements p ++ [v] := by
  have hlast : (c.writeCell c.tail v).readCell p ((c.head + c.count) % p.depth) = v := by
    obtain ⟨hmem, -, -, htail⟩ := id hc
    rw [← htail]
    exact c.readCell_writeCell_self p v (hmem ▸ tail_lt_depth hc)
  calc (c.push p v).elements p
      = (c.writeCell c.tail v).elements p ++
          [(c.writeCell c.tail v).readCell p ((c.head + c.count) % p.depth)] := by
        change (List.range (c.count + 1)).map _ = _
        rw [List.range_succ, List.map_append]
        rfl
    _ = c.elements p ++ [v] := by rw [elements_writeCell_tail v hc h, hlast]

/-! ## The concrete edge -/

theorem readEffect_toBlock (hc : c.Inv p) (d : Bool) :
    readEffect d (c.toBlock p) = mapOutcome (Circ.toBlock p) (c.readEffect p d) := by
  cases d with
  | false => rfl
  | true =>
    by_cases h : c.count = 0
    · have hq : c.elements p = [] := by simp [Circ.elements, h]
      simp [Circ.readEffect_of_zero h, readEffect, popFront, hq]
    · simp only [Circ.readEffect_of_pos h, readEffect, popFront, Circ.toBlock_q, elements_eq_cons hc h, if_true,
        mapOutcome_next]
      rfl

theorem writeEffect_toBlock (hc : c.Inv p) (d : Bool) (v : α) :
    writeEffect p d v (c.toBlock p) = mapOutcome (Circ.toBlock p) (c.writeEffect p d v) := by
  cases d with
  | false => rfl
  | true =>
    by_cases h : c.count < p.depth
    · have hpush : (c.push p v).toBlock p = (c.toBlock p).append v := by
        simp only [Circ.toBlock, elements_push v hc h]
        rfl
      simp [Circ.writeEffect_of_room h, writeEffect, pushBack, h, hpush]
    · simp [Circ.writeEffect_of_no_room h, writeEffect, pushBack, h]

theorem updateFlags_toBlock (m : Bool) (c : Circ α) :
    updateFlags p m (c.toBlock p) = (c.updateFlags p m).toBlock p := by
  cases m with
  | false => rfl
  | true =>
    simp only [updateFlags, Block.recomputeFlags, Circ.updateFlags, flagSize, flagEmpty, flagFull, Circ.toBlock_q,
      Circ.length_elements, if_true]
    rfl

theorem inv_of_readEffect {d : Bool} {c' : Circ α} (hc : c.Inv p) (h : c.readEffect p d = .next c') : c'.Inv p := by
  cases d with
  | false => cases h; exact hc
  | true =>
    by_cases h0 : c.count = 0
    · simp [Circ.readEffect_of_zero h0] at h
    · rw [Circ.readEffect_of_pos h0] at h
      cases h
      exact inv_pop hc h0

theorem inv_of_writeEffect {d : Bool} {v : α} {c' : Circ α} (hc : c.Inv p) (h : c.writeEffect p d v = .next c') :
    c'.Inv p := by
  cases d with
  | false => cases h; exact hc
  | true =>
    by_cases hroom : c.count < p.depth
    · rw [Circ.writeEffect_of_room hroom] at h
      cases h
      exact inv_push v hc hroom
    · simp [Circ.writeEffect_of_no_room hroom] at h

/-- The flag update leaves the cells, the indices and the count (R95). -/
theorem inv_updateFlags (m : Bool) (hc : c.Inv p) : (c.updateFlags p m).Inv p := by
  cases m <;> exact hc

/-- With both indices and the count 0, any `DEPTH` cells meet the concrete invariant (R94). -/
theorem inv_of_indices_zero (hmem : c.mem.length = p.depth) (hhead : c.head = 0) (htail : c.tail = 0)
    (hcount : c.count = 0) : c.Inv p := by
  have hd := p.depth_pos
  exact ⟨hmem, by omega, by omega, by simp [hhead, htail, hcount]⟩

theorem inv_clear (h : c.mem.length = p.depth) : (c.clear p).Inv p := inv_of_indices_zero h rfl rfl rfl

/-- The concrete edge without reset stands for the abstract one (R95, R99). -/
theorem normalEdge_toBlock (hc : c.Inv p) (rd wr : Bool) (v : α) :
    normalEdge p rd wr v (c.toBlock p) = mapOutcome (Circ.toBlock p) (c.normalEdge p rd wr v) := by
  simp only [normalEdge, Circ.normalEdge, Circ.toBlock_empty, Circ.toBlock_full, readEffect_toBlock hc]
  cases hread : c.readEffect p (readAdmitted rd c.empty) with
  | fault e => rfl
  | refused e => rfl
  | next c₁ =>
    simp only [mapOutcome_next, andThen_next, writeEffect_toBlock (inv_of_readEffect hc hread), andThen_mapOutcome,
      mapOutcome_andThen, updateFlags_toBlock]

/-- The concrete edge without reset keeps the concrete invariant (R93, R95). -/
theorem inv_of_normalEdge {rd wr : Bool} {v : α} {c' : Circ α} (hc : c.Inv p)
    (h : c.normalEdge p rd wr v = .next c') : c'.Inv p := by
  obtain ⟨c₁, hread, h⟩ := andThen_eq_next_iff.mp h
  obtain ⟨c₂, hwrite, h⟩ := andThen_eq_next_iff.mp h
  cases h
  exact inv_updateFlags _ (inv_of_writeEffect (inv_of_readEffect hc hread) hwrite)

theorem Circ.step_of_reset {w : Sample α} (h : w.reset = false) : c.step p w = .next (c.clear p) := by
  simp [Circ.step, h]

theorem Circ.step_of_normal {w : Sample α} (h : w.reset = true) :
    c.step p w = c.normalEdge p w.readRequest w.writeRequest w.dataIn := by
  simp [Circ.step, h]

/-- The concrete edge stands for the abstract one (R99). -/
theorem step_toBlock (hc : c.Inv p) (w : Sample α) :
    Block.step p w (c.toBlock p) = mapOutcome (Circ.toBlock p) (c.step p w) := by
  cases hw : w.reset with
  | false =>
    rw [Block.step_of_reset hw, Circ.step_of_reset hw]
    rfl
  | true =>
    rw [Block.step_of_normal hw, Circ.step_of_normal hw]
    exact normalEdge_toBlock hc _ _ _

/-- The concrete edge keeps the concrete invariant (R93). -/
theorem inv_of_step {w : Sample α} {c' : Circ α} (hc : c.Inv p) (h : c.step p w = .next c') : c'.Inv p := by
  cases hw : w.reset with
  | false =>
    obtain ⟨hmem, -⟩ := hc
    rw [Circ.step_of_reset hw] at h
    cases h
    exact inv_clear hmem
  | true => exact inv_of_normalEdge hc (Circ.step_of_normal hw ▸ h)

end

/-- Settles O52: the read effect takes the head cell, which is the front, and the write effect fills the tail, which is no
valid cell; the admission tests and the flag update see the same flags and the same count. -/
theorem circularBufferRefinesStore : Obligations.CircularBufferRefinesStore := by
  refine ⟨fun α p v c hc => ⟨step_toBlock hc v, fun c' => inv_of_step hc⟩, fun i s c hc hblock => ?_⟩
  rw [exec_eq_onBlock, State.onBlock, ← hblock, step_toBlock hc]
  exact andThen_mapOutcome _ _ _

/-- Settles O54: between no valid cell and all of them head and tail are apart, and both requests admitted on exact flags
put the count there. -/
theorem readAndWriteCellsDiffer : Obligations.ReadAndWriteCellsDiffer := by
  intro α p c hc
  refine ⟨head_eq_tail_iff hc, fun v hempty hfull hr hw => ?_⟩
  have hne : c.head ≠ c.tail := by
    rw [Ne, head_eq_tail_iff hc, not_or]
    exact ⟨by simpa [readAdmitted, hempty] using hr, by simpa [writeAdmitted, hfull] using hw⟩
  exact ⟨hne, c.readCell_writeCell_ne p v hne.symm⟩

/-- Settles O55: fewer than `DEPTH` places on from the head, no two places are the same cell. -/
theorem writeKeepsValidCells : Obligations.WriteKeepsValidCells := fun _ _ _ v hc hroom =>
  ⟨fun _ => cell_ne_tail hc hroom, elements_writeCell_tail v hc hroom⟩

/-- Settles O59: the binary digits of `DEPTH - 1` are as many as `ceil(log2(DEPTH))`, which the library knows to be
least. -/
theorem pointerWidthIsLeast : Obligations.PointerWidthIsLeast := by
  intro α p
  have hd := p.depth_pos
  refine ⟨pointerWidth_eq_clog p, fun k => ?_, ?_, fun c hc => ⟨?_, ?_, fun h1 => ?_⟩⟩
  · rw [pointerWidth_eq_clog, Nat.clog_le_iff_le_pow Nat.one_lt_two]
  · rw [pointerWidth_eq_clog, ← Nat.le_zero, Nat.clog_le_iff_le_pow Nat.one_lt_two]
    omega
  · obtain ⟨-, -, hhead, -⟩ := hc
    rw [Circ.toNat_headBits, Nat.mod_eq_of_lt (lt_two_pow_pointerWidth hhead)]
  · rw [Circ.toNat_tailBits, Nat.mod_eq_of_lt (lt_two_pow_pointerWidth (tail_lt_depth hc))]
  · have htail := tail_lt_depth hc
    obtain ⟨-, -, hhead, -⟩ := hc
    omega

/-- Settles O60: below `DEPTH` only `DEPTH - 1` has no greater index; with `DEPTH` a power of two, the remainder by
`DEPTH` is what the pointer width keeps of a sum. -/
theorem pointersAdvanceModuloDepth : Obligations.PointersAdvanceModuloDepth := by
  refine fun α p => ⟨fun a ha => ⟨advance_lt a, ?_⟩, fun k hk a => ?_⟩
  · rw [Circ.advance, add_mod_depth ha p.depth_pos]
    split <;> split <;> omega
  · have hwidth : p.depth = 2 ^ Circ.pointerWidth p := by
      rw [pointerWidth_eq_clog, hk, Nat.clog_pow _ _ Nat.one_lt_two]
    apply BitVec.eq_of_toNat_eq
    rw [Circ.toNat_pointerBits, Circ.advance, hwidth, Nat.mod_mod, BitVec.toNat_add, Circ.toNat_pointerBits]
    simp

/-- Settles O53: with count 0 no cell is valid, so any cells of the right number meet the invariant and stand for the
empty store. -/
theorem circularResetLeavesCells : Obligations.CircularResetLeavesCells :=
  ⟨fun _ _ _ _ => Circ.step_of_reset, fun _ _ _ => inv_clear, fun _ _ _ _ h => ⟨inv_of_indices_zero h rfl rfl rfl, rfl⟩⟩

end Sys2Proof.Machine

/-! # Scope: the operations from an empty, a middle and a full queue -/

namespace Sys2Proof.Machine

section
variable {α : Type} {p : Params α} {b : Block α} {rd wr : Bool} {v v' : α}

/-- Where no write is admitted an edge does not look at `data_in` (R53). -/
theorem normalEdge_dataIn_congr (hw : writeAdmitted wr b.full = false) :
    normalEdge p rd wr v b = normalEdge p rd wr v' b := by
  simp [normalEdge, hw, writeEffect]

/-- `data_out` after an edge depends on the block before it, the wire `reset` and the read request alone (R76, R77). -/
theorem dataOut_eq_of_step {w w' : Sample α} {b₁ b₂ : Block α} (hreset : w.reset = w'.reset)
    (hread : w.readRequest = w'.readRequest) (h₁ : Block.step p w b = .next b₁) (h₂ : Block.step p w' b = .next b₂) :
    b₁.dataOut = b₂.dataOut := by
  cases hw : w.reset with
  | false =>
    rw [Block.step_of_reset hw] at h₁
    rw [Block.step_of_reset (hreset ▸ hw)] at h₂
    cases h₁
    cases h₂
    rfl
  | true =>
    rw [Block.step_of_normal hw] at h₁
    rw [Block.step_of_normal (hreset ▸ hw), ← hread] at h₂
    have hout₁ := dataOut_of_normalEdge h₁
    have hout₂ := dataOut_of_normalEdge h₂
    split at hout₁
    case isTrue hr =>
      rw [if_pos hr] at hout₂
      exact Option.some.inj (hout₁.symm.trans hout₂)
    case isFalse hr =>
      rw [if_neg hr] at hout₂
      exact hout₁.trans hout₂.symm

/-- Another value on `data_in` asks for reset as before. -/
theorem encode_withDataIn_reset (d : Nat) (i : Instr) : (encode (withDataIn d i)).reset = (encode i).reset := by
  cases i <;> rfl

/-- Another value on `data_in` asks for a read as before. -/
theorem encode_withDataIn_readRequest (d : Nat) (i : Instr) :
    (encode (withDataIn d i)).readRequest = (encode i).readRequest := by
  cases i <;> rfl

end

section
variable {s : State}

/-! ## Writes into an empty store -/

/-- The state after a write of `x` into an empty store (R69, R79). -/
def State.withOnly (s : State) (x : s.cfg.Element) : State :=
  { s with q := [x], size := 1, empty := false, full := (s.cfg.depth == 1) }

/-- A store that holds no element has room (R5). -/
theorem length_lt_depth_of_q_nil (hq : s.q = []) : s.q.length < s.cfg.depth := by
  rw [hq]
  exact s.cfg.depth_pos

/-- One element is within every capacity, and its flags are those of the state (R21). -/
theorem consistent_withOnly (s : State) (x : s.cfg.Element) : Consistent (s.withOnly x) :=
  ⟨s.cfg.depth_pos, rfl, rfl, Bool.beq_comm⟩

/-- An admitted WRITE on an empty store, whatever the flags beside `full` show (R118). -/
theorem exec_write_of_q_nil (d : Nat) (hq : s.q = []) (hf : s.full = false) :
    exec (.write d) s = .next (s.withOnly (s.cfg.port d)) := by
  rw [exec_write_of_room d hf (length_lt_depth_of_q_nil hq), State.withOnly]
  simp [hq, Bool.beq_comm]

/-- READ_WRITE with only the write admitted, on an empty store (R118). -/
theorem exec_readWrite_of_q_nil (d : Nat) (hq : s.q = []) (he : s.empty = true) (hf : s.full = false) :
    exec (.readWrite d) s = .next (s.withOnly (s.cfg.port d)) :=
  (exec_readWrite_of_empty d he).trans (exec_write_of_q_nil d hq hf)

/-! ## Flags of a consistent state -/

/-- A consistent state shows `empty = 0` exactly when its store holds an element (R21). -/
theorem empty_eq_false_iff (hs : Consistent s) : s.empty = false ↔ s.q ≠ [] := by
  rw [← Bool.not_eq_true, empty_iff_q_eq_nil hs]

/-- A consistent state shows `full = 0` exactly when its store has room (R21). -/
theorem full_eq_false_iff (hs : Consistent s) : s.full = false ↔ s.q.length < s.cfg.depth := by
  rw [← Bool.not_eq_true, full_iff_length_eq_depth hs]
  obtain ⟨hcap, -⟩ := hs
  omega

/-- A consistent state whose store holds no element has room (R83). -/
theorem full_of_q_nil (hs : Consistent s) (hq : s.q = []) : s.full = false :=
  (full_eq_false_iff hs).mpr (length_lt_depth_of_q_nil hq)

end

/-- Settles O5: on an empty store the flags alone decide: `full` whether a write is admitted, and `empty` whether a read
is, which then finds no front. -/
theorem edgesBeforeFirstReset : Obligations.EdgesBeforeFirstReset := fun s d hq =>
  ⟨exec_idle d s,
    fun hf => ⟨_, exec_write_of_q_nil d hq hf, consistent_withOnly s _, rfl⟩,
    exec_write_of_full d,
    exec_read_of_empty d,
    exec_read_underflow d hq,
    exec_readWrite_underflow d hq,
    fun he hf => ⟨_, exec_readWrite_of_q_nil d hq he hf, consistent_withOnly s _, rfl⟩,
    fun he hf => (exec_readWrite_of_empty d he).trans (exec_write_of_full d hf),
    fun w r => ⟨_, exec_reset_eq_afterReset w r d s, consistent_afterReset _ _, rfl⟩⟩

/-- Settles O10: in a consistent state the length of the store decides which of the two requests are admitted. -/
theorem readWriteThreeCases : Obligations.ReadWriteThreeCases := by
  intro d s hs
  refine ⟨fun hq => ?_, fun x rest hq hl => ?_, fun x rest hq hl => ?_⟩
  · exact exec_readWrite_of_q_nil d hq ((empty_iff_q_eq_nil hs).mpr hq) (full_of_q_nil hs hq)
  · have he : s.empty = false := (empty_eq_false_iff hs).mpr (by simp [hq])
    have hf : s.full = false := (full_eq_false_iff hs).mpr hl
    have hlen : s.q.length = rest.length + 1 := by simp [hq]
    rw [exec_readWrite_of_front_of_room d he hf hq (by omega), hlen]
    simp only [beq_eq_false_iff_ne.mpr (hlen ▸ hl).ne]
  · have he : s.empty = false := (empty_eq_false_iff hs).mpr (by simp [hq])
    have hf : s.full = true := (full_iff_length_eq_depth hs).mpr hl
    have hdepth : s.cfg.depth = rest.length + 1 := by simpa [hq] using hl.symm
    rw [exec_readWrite_of_full d hf, exec_read_of_front d he hq, hdepth]
    simp

/-- Settles O15: with one cell the middle case of READ_WRITE cannot arise. -/
theorem depthOneAlternates : Obligations.DepthOneAlternates := by
  intro s d hs hdepth
  obtain ⟨hnil, -, hfull⟩ := readWriteThreeCases d s hs
  refine ⟨fun he => ?_, fun he => ?_⟩
  · simpa [hdepth] using hnil ((empty_iff_q_eq_nil hs).mp he)
  · obtain ⟨x, rest, hq⟩ := List.exists_cons_of_ne_nil ((empty_eq_false_iff hs).mp he)
    have hrest : rest = [] := by
      obtain ⟨hcap, -⟩ := hs
      simpa [hq, hdepth] using hcap
    subst hrest
    exact ⟨x, hq, by simpa [hdepth] using hfull x [] hq (by simp [hq, hdepth])⟩

/-- Settles O14: an edge writes `data_out` only in its read effect, with the front before the edge; and what READ_WRITE
writes into an empty queue is the front at the next edge. -/
theorem noSameEdgeFallThrough : Obligations.NoSameEdgeFallThrough := by
  refine ⟨fun i d d' s t t' h h' => ?_, fun s d e hs hq => ?_⟩
  · rw [exec_eq_onBlock, onBlock_eq_next_iff] at h h'
    obtain ⟨b, hb, rfl⟩ := h
    obtain ⟨b', hb', rfl⟩ := h'
    have hout : b.dataOut = b'.dataOut := by
      refine dataOut_eq_of_step ?_ ?_ hb hb'
      · simp only [Sample.map_reset, encode_withDataIn_reset]
      · simp only [Sample.map_readRequest, encode_withDataIn_readRequest]
    simp [hout]
  · obtain ⟨hnil, -⟩ := readWriteThreeCases d s hs
    exact ⟨_, _, hnil hq, rfl, exec_read_of_front e rfl rfl, rfl⟩

/-- Settles O16: `data_in` is looked at by the write effect alone. -/
theorem unusedDataInHasNoEffect : Obligations.UnusedDataInHasNoEffect := by
  have hread : ∀ (d d' : Nat) (s : State), exec (.read d) s = exec (.read d') s := fun d d' s =>
    congrArg (mapOutcome s.withBlock) (normalEdge_dataIn_congr rfl)
  refine ⟨fun i d d' s h => ?_, fun i s => ?_, fun i h => ?_⟩
  · have hfull : usesDataIn i = true → s.full = true := fun hi => h.resolve_left (by simp [hi])
    cases i with
    | reset w r _ => exact exec_reset_eq w r w r d d' s
    | idle _ => rfl
    | read _ => exact hread d d' s
    | write _ => rw [withDataIn, withDataIn, exec_write_of_full d (hfull rfl), exec_write_of_full d' (hfull rfl)]
    | readWrite _ =>
      rw [withDataIn, withDataIn, exec_readWrite_of_full d (hfull rfl), exec_readWrite_of_full d' (hfull rfl)]
      exact hread d d' s
  · cases i with
    | reset w r d => exact exec_reset_eq ..
    | idle d => rfl
    | read d => exact hread 0 d s
    | write d => rfl
    | readWrite d => rfl
  · cases i with
    | reset w r d => rfl
    | idle d => rfl
    | read d => rfl
    | write d => cases h
    | readWrite d => cases h

/-- Settles O38: a full queue holds a front, which READ_WRITE takes off alone; the cell it frees is room for one WRITE. -/
theorem fullQueueRefillsInTwoEdges : Obligations.FullQueueRefillsInTwoEdges := by
  intro s d e hs hf
  have hl : s.q.length = s.cfg.depth := (full_iff_length_eq_depth hs).mp hf
  have hd := s.cfg.depth_pos
  obtain ⟨x, rest, hq⟩ := List.exists_cons_of_length_pos (hl ▸ hd)
  have hrest : rest.length + 1 = s.cfg.depth := by simpa [hq] using hl
  obtain ⟨-, -, hfull⟩ := readWriteThreeCases d s hs
  refine ⟨_, _, hfull x rest hq hl, ?_, exec_write_of_room e rfl (Nat.lt_of_succ_le hrest.le), ?_, ?_⟩
  · simp [State.contents, hq]
  · simp [State.contents, hq]
  · simpa using hrest

/-- Settles O58: the port carries all of a number that fits it, the write appends what the port carries, and a read of the
store that holds nothing else takes it off. -/
theorem storedDataIsExact : Obligations.StoredDataIsExact := by
  intro d e s hd hs hf
  have hmod : d % 2 ^ s.cfg.dataWidth = d := Nat.mod_eq_of_lt hd
  have hl := (full_eq_false_iff hs).mp hf
  obtain ⟨hnil, hmiddle, -⟩ := readWriteThreeCases d s hs
  refine ⟨⟨_, exec_write_of_room d hf hl, ?_⟩, ?_, fun hq => ?_⟩
  · simp [State.contents, hmod]
  · cases hq : s.q with
    | nil => exact ⟨_, hnil hq, by simp [State.contents, hq, hmod]⟩
    | cons x rest => exact ⟨_, hmiddle x rest hq hl, by simp [State.contents, hq, hmod]⟩
  · exact ⟨_, _, exec_write_of_q_nil d hq hf, exec_read_of_front e rfl rfl, Config.toNat_port_of_fits hd⟩

end Sys2Proof.Machine

/-! # Scope: occupancy -/

namespace Sys2Proof.Machine

section
variable {s t : State} {vs : List Inputs}

/-! ## The length after an edge -/

/-- An edge without reset changes the length by one for each admitted request (R84). -/
theorem length_of_normalEdge {α : Type} {p : Params α} {b b' : Block α} {rd wr : Bool} {v : α}
    (h : normalEdge p rd wr v b = .next b') :
    b'.q.length + (if readAdmitted rd b.empty then 1 else 0) =
      b.q.length + (if writeAdmitted wr b.full then 1 else 0) := by
  obtain ⟨hr, hw, rfl⟩ | ⟨hr, hw, x, rest, hq, rfl⟩ | ⟨hr, hw, -, rfl⟩ | ⟨hr, hw, x, rest, hq, -, rfl⟩ :=
    normalEdge_cases h
  · simp [hr, hw]
  · simp [hr, hw, hq]
  · simp [hr, hw]
  · simp [hr, hw, hq]

/-- A consistent state admits a read that is requested while the store holds an element (R66, R85). -/
theorem readAdmitted_iff (hs : Consistent s) (rd : Bool) :
    readAdmitted rd s.empty = true ↔ rd = true ∧ s.q.length ≠ 0 := by
  simp [readAdmitted, empty_eq_false_iff hs]

/-- A consistent state admits a write that is requested while the store is below `DEPTH` (R67, R85). -/
theorem writeAdmitted_iff (hs : Consistent s) (wr : Bool) :
    writeAdmitted wr s.full = true ↔ wr = true ∧ s.q.length ≠ s.cfg.depth := by
  simp [writeAdmitted, ← full_iff_length_eq_depth hs]

/-- The next state of a consistent state without reset, and its length (R84). -/
theorem exists_next_length {v : Inputs} (hs : Consistent s) (hv : v.reset = true) :
    ∃ t, exec (decode v) s = .next t ∧ Consistent t ∧ t.cfg.depth = s.cfg.depth ∧
      t.q.length + (if v.readRequest = true ∧ s.q.length ≠ 0 then 1 else 0) =
        s.q.length + (if v.writeRequest = true ∧ s.q.length ≠ s.cfg.depth then 1 else 0) := by
  obtain ⟨b, hb, hcons⟩ := normalEdge_of_consistent hs v.readRequest v.writeRequest (s.cfg.port v.dataIn)
  refine ⟨_, (exec_decode_of_normal hv).trans (onBlock_of_next hb), hcons, rfl, ?_⟩
  have hlen := length_of_normalEdge hb
  simp only [State.block_empty, State.block_full, readAdmitted_iff hs, writeAdmitted_iff hs] at hlen
  exact hlen

/-! ## The length after a run -/

/-- No run changes the instance (R25). -/
theorem cfg_of_runInputs (h : runInputs vs s = .next t) : t.cfg = s.cfg := by
  induction vs generalizing s with
  | nil =>
    cases h
    rfl
  | cons v vs ih =>
    obtain ⟨u, hexec, hrun⟩ := andThen_eq_next_iff.mp h
    exact (ih hrun).trans (cfg_of_exec hexec)

/-- A run without reset changes the length by the writes it admits less the reads it admits (R89). -/
theorem length_add_enqueued (hvs : ResetFree vs) (h : runInputs vs s = .next t) :
    s.q.length + (enqueued vs s).length = (dequeued vs s).length + t.q.length := by
  simpa using congrArg List.length (contents_append_enqueued hvs h)

/-! ## Runs between the ends -/

/-- READ_WRITE of a consistent state between the ends is served in full (R134). -/
theorem exec_readWrite_of_middle (d : Nat) (hs : Consistent s) (hpos : 0 < s.q.length)
    (hl : s.q.length < s.cfg.depth) :
    ∃ b, exec (.readWrite d) s = .next (s.withBlock b) ∧ Consistent (s.withBlock b) ∧ b.q.length = s.q.length ∧
      readAdmitted true s.empty = true ∧ writeAdmitted true s.full = true := by
  have hr : readAdmitted true s.empty = true := (readAdmitted_iff hs true).mpr ⟨rfl, hpos.ne'⟩
  have hw : writeAdmitted true s.full = true := (writeAdmitted_iff hs true).mpr ⟨rfl, hl.ne⟩
  obtain ⟨b, hb, hcons⟩ := normalEdge_of_consistent hs true true (s.cfg.port d)
  have hlen := length_of_normalEdge hb
  simp only [State.block_empty, State.block_full, hr, hw, State.block_q] at hlen
  exact ⟨b, onBlock_of_next hb, hcons, Nat.add_right_cancel hlen, hr, hw⟩

end

/-- Settles O18: the store cannot be at both ends, which lie `DEPTH ≥ 1` apart. -/
theorem emptyAndFullExclude : Obligations.EmptyAndFullExclude := by
  intro s hs
  have hd := s.cfg.depth_pos
  obtain ⟨hcap, -, hempty, hfull⟩ := hs
  refine ⟨?_, ?_, ?_, fun h1 => ?_⟩
  · simp only [hempty, hfull, beq_iff_eq]
    omega
  · simp only [hempty, hfull, beq_eq_false_iff_ne]
    omega
  · simp only [hempty, hfull, beq_eq_false_iff_ne]
    omega
  · rw [Bool.eq_iff_iff]
    simp only [hempty, hfull, h1, beq_iff_eq, Bool.not_eq_true', beq_eq_false_iff_ne]
    omega

/-- Settles O19: each admitted request counts for one, and a consistent state admits no read at 0 and no write at
`DEPTH`. -/
theorem nextLengthFormula : Obligations.NextLengthFormula := by
  intro v s hs hv
  obtain ⟨t, hexec, ⟨hcap, -⟩, hdepth, hlen⟩ := exists_next_length hs hv
  refine ⟨t, hexec, hlen, ?_, ?_, hdepth ▸ hcap⟩
  all_goals split_ifs at hlen <;> omega

/-- Settles O20: the length formula at the inputs of each operation. -/
theorem occupancyTable : Obligations.OccupancyTable := by
  intro s w r d hs hd
  obtain ⟨hcap, -⟩ := id hs
  refine ⟨⟨_, exec_reset_eq_afterReset w r d s, rfl⟩, ⟨s, exec_idle d s, rfl⟩, ?_, ?_, ?_⟩
  · obtain ⟨t, hexec, -, -, hlen⟩ := exists_next_length (v := encode (.read d)) hs rfl
    refine ⟨t, by simpa using hexec, ?_⟩
    simp only [encode, true_and, Bool.false_eq_true, false_and, if_false] at hlen
    split_ifs at hlen ⊢ <;> omega
  · obtain ⟨t, hexec, -, -, hlen⟩ := exists_next_length (v := encode (.write d)) hs rfl
    refine ⟨t, by simpa using hexec, ?_⟩
    simp only [encode, true_and, Bool.false_eq_true, false_and, if_false] at hlen
    split_ifs at hlen ⊢ <;> omega
  · obtain ⟨t, hexec, ht, hdepth, hlen⟩ := exists_next_length (v := encode (.readWrite d)) hs rfl
    simp only [encode, true_and] at hlen
    refine ⟨t, by simpa using hexec, ?_, ?_, ?_⟩
    · split_ifs at hlen ⊢ <;> omega
    · rw [full_iff_length_eq_depth ht, full_iff_length_eq_depth hs, hdepth]
      split_ifs at hlen <;> omega
    · rw [empty_iff_q_eq_nil ht, empty_iff_q_eq_nil hs, ← List.length_eq_zero_iff, ← List.length_eq_zero_iff]
      split_ifs at hlen <;> omega

/-- Settles O21: the width is the number of binary digits of `DEPTH`, which is at least the size of every consistent
state. -/
theorem sizeWidthIsLeast : Obligations.SizeWidthIsLeast := by
  have hlt : ∀ c : Config, c.depth < 2 ^ c.sizeWidth := fun c => Nat.lt_log2_self
  refine ⟨fun c => ⟨?_, hlt c, ?_⟩, fun s hs => ?_, fun c => ?_⟩
  · exact log2_add_one_eq_clog (Nat.one_le_iff_ne_zero.mp c.depth_pos)
  · exact Nat.log2_self_le (Nat.one_le_iff_ne_zero.mp c.depth_pos)
  · obtain ⟨hcap, hsize, -, -⟩ := hs
    have hfits : s.size < 2 ^ s.cfg.sizeWidth := by
      rw [hsize]
      exact hcap.trans_lt (hlt s.cfg)
    exact Nat.mod_eq_of_lt hfits
  · have hlisted : ∀ n ∈ [1, 2, 3, 4, 7, 8, 15, 16],
        (n, Nat.log2 n + 1) ∈ [(1, 1), (2, 2), (3, 2), (4, 3), (7, 3), (8, 4), (15, 4), (16, 5)] := by decide
    by_cases hmem : c.depth ∈ [1, 2, 3, 4, 7, 8, 15, 16]
    · exact .inl (hlisted c.depth hmem)
    · exact .inr hmem

/-- Settles O37: the length at the end is the length at the start, and what was enqueued, less what was dequeued. -/
theorem fullNeedsExcessWrites : Obligations.FullNeedsExcessWrites := by
  intro s vs hs hvs
  obtain ⟨t, hrun, ht⟩ := exists_runInputs_of_consistent vs hs
  have hlen := length_add_enqueued hvs hrun
  obtain ⟨hcap, -⟩ := hs
  refine ⟨t, hrun, ?_, ?_⟩
  · have hdepth : t.cfg.depth = s.cfg.depth := congrArg Config.depth (cfg_of_runInputs hrun)
    rw [full_iff_length_eq_depth ht, hdepth]
    omega
  · rw [empty_iff_q_eq_nil ht, ← List.length_eq_zero_iff]
    omega

/-- Settles O41: by induction on the run, since a READ_WRITE served in full leaves the store between the ends. -/
theorem streamingIsSustained : Obligations.StreamingIsSustained := by
  intro s ds hs hpos hl
  induction ds generalizing s with
  | nil => exact ⟨s, rfl, rfl, rfl, rfl⟩
  | cons d ds ih =>
    obtain ⟨b, hexec, hcons, hlen, hr, hw⟩ := exec_readWrite_of_middle d hs hpos hl
    have hstep : exec (decode (encode (.readWrite d))) s = .next (s.withBlock b) := by rwa [decode_encode]
    obtain ⟨t, hrun, hlen', henq, hdeq⟩ := ih (s.withBlock b) hcons (hlen ▸ hpos) (hlen ▸ hl)
    have henq₁ : enqueued [encode (.readWrite d)] s = [(s.cfg.port d).toNat] :=
      (enqueued_singleton rfl hstep).trans (if_pos hw)
    have hdeq₁ : dequeued [encode (.readWrite d)] s = [b.dataOut.toNat] :=
      (dequeued_singleton rfl hstep).trans (if_pos hr)
    refine ⟨t, (runInputs_cons_of_next hstep _).trans hrun, hlen'.trans hlen, ?_, ?_⟩
    · rw [List.map_cons, enqueued_cons_of_next hstep, henq₁, henq]
      rfl
    · rw [List.map_cons, dequeued_cons_of_next hstep, hdeq₁, List.length_append, hdeq]
      simp [Nat.add_comm]

end Sys2Proof.Machine

/-! # Scope: frames of READ, WRITE and READ_WRITE -/

namespace Sys2Proof.Machine

section
variable {s t : State} {rd wr : Bool} {v : s.cfg.Element} {b : Block s.cfg.Element}

/-- The elements an edge without reset keeps: behind the front that an admitted read takes, before the element that an
admitted write appends; `data_out` changes only to that front (R68, R69, R76). -/
theorem exists_kept_of_normalEdge (h : normalEdge s.cfg.params rd wr v s.block = .next b) :
    ∃ kept : List Nat,
      s.contents = (if readAdmitted rd s.empty then [b.dataOut.toNat] else []) ++ kept ∧
      (s.withBlock b).contents = kept ++ (if writeAdmitted wr s.full then [v.toNat] else []) ∧
      (readAdmitted rd s.empty = false → b.dataOut = s.dataOut) := by
  have hcases := normalEdge_cases h
  simp only [State.block_q, State.block_empty, State.block_full] at hcases
  obtain ⟨hr, hw, rfl⟩ | ⟨hr, hw, x, rest, hq, rfl⟩ | ⟨hr, hw, -, rfl⟩ | ⟨hr, hw, x, rest, hq, -, rfl⟩ := hcases
  · exact ⟨s.contents, by simp [hr], by simp [hw], fun _ => rfl⟩
  · exact ⟨rest.map BitVec.toNat, by simp [hr, hq, State.contents], by simp [hw, State.contents], by simp [hr]⟩
  · exact ⟨s.contents, by simp [hr], by simp [hw, State.contents], fun _ => rfl⟩
  · exact ⟨rest.map BitVec.toNat, by simp [hr, hq, State.contents], by simp [hw, State.contents], by simp [hr]⟩

end

/-- Settles O30: an admitted READ takes the first place away. -/
theorem readFrame : Obligations.ReadFrame := by
  intro d s t h
  refine ⟨fun he => ?_, fun he => ?_, operationsKeepInstanceAndInputs _ s t h⟩
  · cases (exec_read_of_empty d he).symm.trans h
    rfl
  · obtain ⟨b, hb, rfl⟩ := onBlock_eq_next_iff.mp (exec_read d s ▸ h)
    obtain ⟨kept, hs, ht, -⟩ := exists_kept_of_normalEdge hb
    have hr : readAdmitted true s.empty = true := by simp [readAdmitted, he]
    have hw : writeAdmitted false s.full = false := rfl
    rw [hs, ht, hr, hw]
    simp

/-- Settles O31: a WRITE keeps every element, and an admitted one appends one more. -/
theorem writeFrame : Obligations.WriteFrame := by
  intro d s t h
  have hframe := operationsKeepInstanceAndInputs _ s t h
  have hdrop : s.full = true → t = s := fun hf => by
    cases (exec_write_of_full d hf).symm.trans h
    rfl
  obtain ⟨b, hb, rfl⟩ := onBlock_eq_next_iff.mp (exec_write d s ▸ h)
  obtain ⟨kept, hs, ht, hout⟩ := exists_kept_of_normalEdge hb
  have hkept : kept = s.contents := by simpa [readAdmitted] using hs.symm
  rw [hkept] at ht
  refine ⟨hdrop, fun k hk => ?_, fun hf => ?_, ?_, hframe⟩
  · rw [ht, List.getElem?_append_left (by simpa using hk)]
  · have hlen := length_of_normalEdge hb
    have hw : writeAdmitted true s.full = true := by simp [writeAdmitted, hf]
    rw [ht, hw, ← State.length_contents s]
    exact ⟨by simp, by simpa [readAdmitted, writeAdmitted, hf] using hlen⟩
  · simp [hout rfl]

/-- Settles O32: `empty` before the edge decides whether the first place is taken away, and `full` whether one element
more stands last. -/
theorem readWriteFrame : Obligations.ReadWriteFrame := by
  intro d s t h
  have hframe := operationsKeepInstanceAndInputs _ s t h
  obtain ⟨b, hb, rfl⟩ := onBlock_eq_next_iff.mp (exec_readWrite d s ▸ h)
  obtain ⟨kept, hs, ht, hout⟩ := exists_kept_of_normalEdge hb
  have hlen : b.q.length + (if s.empty = true then 0 else 1) = s.q.length + (if s.full = true then 0 else 1) := by
    have hedge := length_of_normalEdge hb
    cases he : s.empty <;> cases hf : s.full <;> simpa [readAdmitted, writeAdmitted, he, hf] using hedge
  have hr : readAdmitted true s.empty = !s.empty := rfl
  have hw : writeAdmitted true s.full = !s.full := rfl
  rw [hr] at hs hout
  rw [hw] at ht
  refine ⟨fun he => ⟨?_, fun k hk => ?_⟩, fun he => ⟨?_, fun k hk => ?_⟩, fun hf => ?_, fun hf => ⟨?_, ?_⟩, hframe⟩
  · simp [hout (by simp [he])]
  · have hkept : s.contents = kept := by simpa [he] using hs
    rw [ht, hkept, List.getElem?_append_left (by simpa [← hkept] using hk)]
  · simp [hs, he]
  · have hkept : s.contents = b.dataOut.toNat :: kept := by simpa [he] using hs
    have hk' : k < kept.length := by
      rw [← State.length_contents, hkept, List.length_cons] at hk
      exact Nat.lt_of_succ_lt_succ hk
    rw [ht, hkept, List.getElem?_cons_succ, List.getElem?_append_left hk']
  · simpa [hf] using hlen
  · simp [ht, hf]
  · simpa [hf] using hlen

end Sys2Proof.Machine

/-! # Scope: the wires over time -/

namespace Sys2Proof.Machine

section
variable {a p n : Pins} {mid rest : List Pins}

/-- Where the clock does not rise, nothing is sampled (R46). -/
theorem sampleWave_of_not_rises (h : clkRises p.clk n.clk = some false) :
    sampleWave p (n :: rest) = sampleWave n rest := by
  rw [sampleWave, h]

/-- A stretch at one level of the clock, from which the clock does not rise and to which it has not risen, leaves no
trace (R46). -/
theorem sampleWave_append_of_level {l : Level} (hstay : clkRises l l = some false)
    (ha : clkRises a.clk l = some false) (hmid : ∀ m ∈ mid, m.clk = l) (hp : p.clk = l) :
    sampleWave a (mid ++ p :: rest) = sampleWave p rest := by
  induction mid generalizing a with
  | nil => exact sampleWave_of_not_rises (hp ▸ ha)
  | cons m mid ih =>
    obtain ⟨hm, hmid⟩ := List.forall_mem_cons.mp hmid
    exact (sampleWave_of_not_rises (hm ▸ ha)).trans (ih (hm ▸ hstay) hmid)

/-- With a clock wire that is not driven it is not known whether the clock rises (D14). -/
theorem clkRises_of_undriven {before after : Level} (h : before = .undriven ∨ after = .undriven) :
    clkRises before after = none := by
  rcases h with rfl | rfl
  · rfl
  · cases before <;> rfl

end

/-- Settles O50: to the low level the clock never rises, and to the high level it does not rise from the high level. -/
theorem betweenEdgesNothingIsSeen : Obligations.BetweenEdgesNothingIsSeen := by
  refine ⟨fun a p mid rest ha hmid hp => sampleWave_append_of_level rfl ?_ hmid hp,
    fun a p mid rest ha hmid hp => sampleWave_append_of_level rfl (by rw [ha]; rfl) hmid hp⟩
  cases hl : a.clk with
  | low => rfl
  | high => rfl
  | undriven => exact absurd hl ha

/-- Settles O51: a clock that goes from low to high rises, and what is sampled there is what the inputs were at the moment
before, if they are that still. -/
theorem risingEdgeSamplesSettledInputs : Obligations.RisingEdgeSamplesSettledInputs := by
  intro p n rest
  have hrises : p.clk = .low → n.clk = .high → clkRises p.clk n.clk = some true := fun hp hn => by rw [hp, hn]; rfl
  refine ⟨fun hp hn v hv hv' => ?_, fun hp hn v hv hv' => ?_, fun hp hn hv => ?_, fun h => ?_⟩
  · simp [sampleWave, hrises hp hn, hv, hv']
  · simp [sampleWave, hrises hp hn, hv, hv']
  · simp [sampleWave, hrises hp hn, hv]
  · simp [sampleWave, clkRises_of_undriven h]

end Sys2Proof.Machine

/-! # Scope: construction -/

namespace Sys2Proof.Machine

/-- Settles O1: the state after reset, at the reference configuration. -/
theorem resetStateHoldsStatedValues : Obligations.ResetStateHoldsStatedValues := ⟨rfl, rfl, rfl, rfl, rfl, rfl⟩

/-- Settles O4: the two bounds are tested one after the other, and are then part of the configuration. -/
theorem constructionRefusesZeroCapacity : Obligations.ConstructionRefusesZeroCapacity := by
  refine ⟨fun w e p => dif_neg (by decide), fun n e p hn => ?_, fun n w e p hn hw => ?_⟩
  · rw [construct, dif_pos hn, dif_neg (by decide)]
  · rw [construct, dif_pos hn, dif_pos hw]
    rfl

end Sys2Proof.Machine
